-- ==== Sys2Proof/Word.lean ====
section
/-!
DEFINITION. The machine's plain word types (00_scope R5, R13, R14): all values are unsigned, bit 0 is the least
significant bit.
-/
namespace Sys2Proof

/-- A memory byte, a general register, a timer (R5: "register width 8 bits"). -/
abbrev Byte := BitVec 8

/-- The address register, the program counter, a stack entry, an instruction word (R5: 16 bits). -/
abbrev Word := BitVec 16

/-- The fields `X`, `Y`, `N` of an instruction word (R14), a key identifier, the latch KX. -/
abbrev Nibble := BitVec 4

/-- The field `NNN` of an instruction word (R14). -/
abbrev Addr := BitVec 12

/-- `a :: b` of R13 for two bytes: `hi` on the high side. -/
def wordOf (hi lo : Byte) : Word := hi ++ lo

/-- `v[15:8]`. -/
def hiByte (w : Word) : Byte := w.extractLsb' 8 8

/-- `v[7:0]`. -/
def loByte (w : Word) : Byte := w.extractLsb' 0 8

end Sys2Proof
end

