-- ==== Sys2Proof/Config.lean ====
section
/-!
DEFINITION. What an implementation fixes (00_scope R6) and the free values the environment supplies (R37, R134).

The four parameters of R6 are one record of plain data. State carries it, no event writes it, so a statement about
every state holds for every choice of the parameters.
-/
namespace Sys2Proof.Config

/-- `SHIFT_SRC` (R6, D5): which register 8XY6 and 8XYE shift. -/
inductive ShiftSrc
  | vx
  | vy
  deriving DecidableEq, Repr

/-- `SYS_POLICY` (R6, D6): what 0NNN (other than 00E0, 00EE) does. -/
inductive SysPolicy
  | nop
  | fatal
  deriving DecidableEq, Repr

/-- The open parameters of R6. -/
structure Params where
  /-- `FONT_BASE`, constraint `FONT_BASE + 80 <= 0x200` (D3): 0 to 432. -/
  fontBase  : Fin 433
  /-- `FONT_DATA`, glyph `d` is bytes `5*d` to `5*d+4` (D4). -/
  fontData  : Vector (Vector Byte 5) 16
  shiftSrc  : ShiftSrc
  sysPolicy : SysPolicy
  deriving DecidableEq, Repr

/-- The default of `FONT_DATA`: the table of 20_memory R57. -/
def defaultFont : Vector (Vector Byte 5) 16 :=
  #v[#v[0xF0, 0x90, 0x90, 0x90, 0xF0], #v[0x20, 0x60, 0x20, 0x20, 0x70],
     #v[0xF0, 0x10, 0xF0, 0x80, 0xF0], #v[0xF0, 0x10, 0xF0, 0x10, 0xF0],
     #v[0x90, 0x90, 0xF0, 0x10, 0x10], #v[0xF0, 0x80, 0xF0, 0x10, 0xF0],
     #v[0xF0, 0x80, 0xF0, 0x90, 0xF0], #v[0xF0, 0x10, 0x20, 0x40, 0x40],
     #v[0xF0, 0x90, 0xF0, 0x90, 0xF0], #v[0xF0, 0x90, 0xF0, 0x10, 0xF0],
     #v[0xF0, 0x90, 0xF0, 0x90, 0x90], #v[0xE0, 0x90, 0xE0, 0x90, 0xE0],
     #v[0xF0, 0x80, 0x80, 0x80, 0xF0], #v[0xE0, 0x90, 0x90, 0x90, 0xE0],
     #v[0xF0, 0x80, 0xF0, 0x80, 0xF0], #v[0xF0, 0x80, 0xF0, 0x80, 0x80]]

/-- The defaults R6 names. -/
def defaults : Params :=
  { fontBase := 0, fontData := defaultFont, shiftSrc := .vx, sysPolicy := .nop }

/-- Which of the five events of R9. -/
inductive EventKind
  | reset
  | step
  | keyEvent
  | tick
  | hostRead
  deriving DecidableEq, Repr, Inhabited

/-! FREE VALUES (log entries 1, 2): the `n`-th event that the environment's list does not script, and its arguments. -/

/-- Which event it is (R212: "A model must allow any interleaving of `Tick` with `Step` and `KeyEvent`"). -/
opaque freeKind : Nat → EventKind

/-- The image of a Reset (R230: "It can occur in any state"). -/
opaque freeImage : Nat → List Byte

/-- The `keys` argument of a Step (R37: an input, "any value per step"). -/
opaque freeKeys : Nat → BitVec 16

/-- The `rnd` argument of a Step (R134: "a free 8-bit draw, different at every CXNN and bound by no law"). -/
opaque freeRnd : Nat → Byte

/-- The `k` of a KeyEvent (R174, U14). -/
opaque freeKey : Nat → Nibble

end Sys2Proof.Config
end

