-- ==== Sys2Proof/Decode.lean ====
section
/-!
DEFINITION. The decoder of 30_encoding R87, total on the 65536 words and on any list of bytes, and after it the
encoder, written from the table of R90.
-/
namespace Sys2Proof

/-- Why a word is no instruction (R88), or that there are not two bytes to read. -/
inductive DecodeReject
  /-- `8XYN` with N in 8 to D or F: "no ALU operation has that selector". -/
  | aluSelector (n : Nibble)
  /-- `EXNN` with NN other than 9E and A1: "no key-skip has that selector". -/
  | keySelector (nn : Byte)
  /-- `FXNN` with none of the nine selectors. -/
  | miscSelector (nn : Byte)
  /-- `0NNN` other than 00E0 and 00EE under `SYS_POLICY = fatal`. -/
  | sysFatal (nnn : Addr)
  /-- Fewer than two bytes were given. -/
  | truncated
  deriving DecidableEq, Repr

/-! ### The fields of a word (R81) -/

/-- `F = w[15:12]` -/
def fieldF (w : Word) : Nibble := w.extractLsb' 12 4
/-- `X = w[11:8]` -/
def fieldX (w : Word) : Nibble := w.extractLsb' 8 4
/-- `Y = w[7:4]` -/
def fieldY (w : Word) : Nibble := w.extractLsb' 4 4
/-- `N = w[3:0]` -/
def fieldN (w : Word) : Nibble := w.extractLsb' 0 4
/-- `NN = w[7:0]` -/
def fieldNN (w : Word) : Byte := w.extractLsb' 0 8
/-- `NNN = w[11:0]` -/
def fieldNNN (w : Word) : Addr := w.extractLsb' 0 12

/-! ### The decoder (R87): the family first, then the second-level selector -/

/-- Family 0: the whole word is the selector. -/
def decodeZero (policy : Config.SysPolicy) (w : Word) : Except DecodeReject Instr :=
  if w = 0x00E0#16 then .ok .cls
  else if w = 0x00EE#16 then .ok .ret
  else match policy with
    | .nop   => .ok (.sys (fieldNNN w))
    | .fatal => .error (.sysFatal (fieldNNN w))

/-- Family 8: the low nibble is the selector. -/
def decodeAlu (w : Word) : Except DecodeReject Instr :=
  match fieldN w with
  | 0x0#4 => .ok (.ldReg (fieldX w) (fieldY w))
  | 0x1#4 => .ok (.orReg (fieldX w) (fieldY w))
  | 0x2#4 => .ok (.andReg (fieldX w) (fieldY w))
  | 0x3#4 => .ok (.xorReg (fieldX w) (fieldY w))
  | 0x4#4 => .ok (.addReg (fieldX w) (fieldY w))
  | 0x5#4 => .ok (.sub (fieldX w) (fieldY w))
  | 0x6#4 => .ok (.shr (fieldX w) (fieldY w))
  | 0x7#4 => .ok (.subn (fieldX w) (fieldY w))
  | 0xE#4 => .ok (.shl (fieldX w) (fieldY w))
  | n     => .error (.aluSelector n)

/-- Family E: the low byte is the selector. -/
def decodeKey (w : Word) : Except DecodeReject Instr :=
  match fieldNN w with
  | 0x9E#8 => .ok (.skp (fieldX w))
  | 0xA1#8 => .ok (.sknp (fieldX w))
  | nn     => .error (.keySelector nn)

/-- Family F: the low byte is the selector. -/
def decodeMisc (w : Word) : Except DecodeReject Instr :=
  match fieldNN w with
  | 0x07#8 => .ok (.ldVxDt (fieldX w))
  | 0x0A#8 => .ok (.ldVxK (fieldX w))
  | 0x15#8 => .ok (.ldDtVx (fieldX w))
  | 0x18#8 => .ok (.ldStVx (fieldX w))
  | 0x1E#8 => .ok (.addIVx (fieldX w))
  | 0x29#8 => .ok (.ldFVx (fieldX w))
  | 0x33#8 => .ok (.ldBVx (fieldX w))
  | 0x55#8 => .ok (.ldMemVx (fieldX w))
  | 0x65#8 => .ok (.ldVxMem (fieldX w))
  | nn     => .error (.miscSelector nn)

/-- `Decode(w)` of R87. -/
def decode (policy : Config.SysPolicy) (w : Word) : Except DecodeReject Instr :=
  match fieldF w with
  | 0x0#4 => decodeZero policy w
  | 0x1#4 => .ok (.jp (fieldNNN w))
  | 0x2#4 => .ok (.call (fieldNNN w))
  | 0x3#4 => .ok (.seImm (fieldX w) (fieldNN w))
  | 0x4#4 => .ok (.sneImm (fieldX w) (fieldNN w))
  | 0x5#4 => .ok (.seReg (fieldX w) (fieldY w) (fieldN w))
  | 0x6#4 => .ok (.ldImm (fieldX w) (fieldNN w))
  | 0x7#4 => .ok (.addImm (fieldX w) (fieldNN w))
  | 0x8#4 => decodeAlu w
  | 0x9#4 => .ok (.sneReg (fieldX w) (fieldY w) (fieldN w))
  | 0xA#4 => .ok (.ldI (fieldNNN w))
  | 0xB#4 => .ok (.jpV0 (fieldNNN w))
  | 0xC#4 => .ok (.rnd (fieldX w) (fieldNN w))
  | 0xD#4 => .ok (.drw (fieldX w) (fieldY w) (fieldN w))
  | 0xE#4 => decodeKey w
  | _     => decodeMisc w

/-- The decoder on bytes as Memory holds them: the first byte is the high byte (R58, R80). Answers the instruction
and the bytes after it. -/
def decodeBytes (policy : Config.SysPolicy) : List Byte → Except DecodeReject (Instr × List Byte)
  | hi :: lo :: rest => (decode policy (wordOf hi lo)).map fun i => (i, rest)
  | _ => .error .truncated

/-- The instruction whose table word is `w` (bit 0 the least significant bit of the 16-bit word), laid out as Memory
holds it (high byte first) and read by the decoder under the default policy `nop`. -/
def decodeTableWord (nbits w : Nat) : Option Instr :=
  let word : Word := BitVec.ofNat 16 (w % 2 ^ nbits)
  match decodeBytes .nop [hiByte word, loByte word] with
  | .ok (i, _) => some i
  | .error _   => none

/-! ### The encoder, from the table of R90 and the formats of R82 -/

/-- Format `A`: family and 12-bit address. -/
def formatA (f : Nibble) (nnn : Addr) : Word := f ++ nnn
/-- Formats `XI` and `XS`: family, register, immediate or selector byte. -/
def formatXI (f x : Nibble) (nn : Byte) : Word := f ++ x ++ nn
/-- Formats `XYS` and `XYN`: family, two registers, selector or count. -/
def formatXYN (f x y n : Nibble) : Word := f ++ x ++ y ++ n

/-- The word of an instruction. -/
def encode : Instr → Word
  | .cls          => 0x00E0#16
  | .ret          => 0x00EE#16
  | .sys nnn      => formatA 0x0#4 nnn
  | .jp nnn       => formatA 0x1#4 nnn
  | .call nnn     => formatA 0x2#4 nnn
  | .seImm x nn   => formatXI 0x3#4 x nn
  | .sneImm x nn  => formatXI 0x4#4 x nn
  | .seReg x y n  => formatXYN 0x5#4 x y n
  | .ldImm x nn   => formatXI 0x6#4 x nn
  | .addImm x nn  => formatXI 0x7#4 x nn
  | .ldReg x y    => formatXYN 0x8#4 x y 0x0#4
  | .orReg x y    => formatXYN 0x8#4 x y 0x1#4
  | .andReg x y   => formatXYN 0x8#4 x y 0x2#4
  | .xorReg x y   => formatXYN 0x8#4 x y 0x3#4
  | .addReg x y   => formatXYN 0x8#4 x y 0x4#4
  | .sub x y      => formatXYN 0x8#4 x y 0x5#4
  | .shr x y      => formatXYN 0x8#4 x y 0x6#4
  | .subn x y     => formatXYN 0x8#4 x y 0x7#4
  | .shl x y      => formatXYN 0x8#4 x y 0xE#4
  | .sneReg x y n => formatXYN 0x9#4 x y n
  | .ldI nnn      => formatA 0xA#4 nnn
  | .jpV0 nnn     => formatA 0xB#4 nnn
  | .rnd x nn     => formatXI 0xC#4 x nn
  | .drw x y n    => formatXYN 0xD#4 x y n
  | .skp x        => formatXI 0xE#4 x 0x9E#8
  | .sknp x       => formatXI 0xE#4 x 0xA1#8
  | .ldVxDt x     => formatXI 0xF#4 x 0x07#8
  | .ldVxK x      => formatXI 0xF#4 x 0x0A#8
  | .ldDtVx x     => formatXI 0xF#4 x 0x15#8
  | .ldStVx x     => formatXI 0xF#4 x 0x18#8
  | .addIVx x     => formatXI 0xF#4 x 0x1E#8
  | .ldFVx x      => formatXI 0xF#4 x 0x29#8
  | .ldBVx x      => formatXI 0xF#4 x 0x33#8
  | .ldMemVx x    => formatXI 0xF#4 x 0x55#8
  | .ldVxMem x    => formatXI 0xF#4 x 0x65#8

/-- The bytes of an instruction as Memory holds them (R80: "high byte first"). -/
def encodeBytes (i : Instr) : List Byte := [hiByte (encode i), loByte (encode i)]

/-! ### The opcode map (R90) -/

/-- The (mask, match) pair of an instruction's row in R90. -/
def Instr.row : Instr → Word × Word
  | .cls          => (0xFFFF, 0x00E0)
  | .ret          => (0xFFFF, 0x00EE)
  | .sys _        => (0xF000, 0x0000)
  | .jp _         => (0xF000, 0x1000)
  | .call _       => (0xF000, 0x2000)
  | .seImm _ _    => (0xF000, 0x3000)
  | .sneImm _ _   => (0xF000, 0x4000)
  | .seReg _ _ _  => (0xF000, 0x5000)
  | .ldImm _ _    => (0xF000, 0x6000)
  | .addImm _ _   => (0xF000, 0x7000)
  | .ldReg _ _    => (0xF00F, 0x8000)
  | .orReg _ _    => (0xF00F, 0x8001)
  | .andReg _ _   => (0xF00F, 0x8002)
  | .xorReg _ _   => (0xF00F, 0x8003)
  | .addReg _ _   => (0xF00F, 0x8004)
  | .sub _ _      => (0xF00F, 0x8005)
  | .shr _ _      => (0xF00F, 0x8006)
  | .subn _ _     => (0xF00F, 0x8007)
  | .shl _ _      => (0xF00F, 0x800E)
  | .sneReg _ _ _ => (0xF000, 0x9000)
  | .ldI _        => (0xF000, 0xA000)
  | .jpV0 _       => (0xF000, 0xB000)
  | .rnd _ _      => (0xF000, 0xC000)
  | .drw _ _ _    => (0xF000, 0xD000)
  | .skp _        => (0xF0FF, 0xE09E)
  | .sknp _       => (0xF0FF, 0xE0A1)
  | .ldVxDt _     => (0xF0FF, 0xF007)
  | .ldVxK _      => (0xF0FF, 0xF00A)
  | .ldDtVx _     => (0xF0FF, 0xF015)
  | .ldStVx _     => (0xF0FF, 0xF018)
  | .addIVx _     => (0xF0FF, 0xF01E)
  | .ldFVx _      => (0xF0FF, 0xF029)
  | .ldBVx _      => (0xF0FF, 0xF033)
  | .ldMemVx _    => (0xF0FF, 0xF055)
  | .ldVxMem _    => (0xF0FF, 0xF065)

/-- The (mask, match) pairs of R90 in the table's order (00E0 and 00EE before 0NNN). -/
def opcodeMap : List (Word × Word) :=
  [Instr.cls, .ret, .sys 0, .jp 0, .call 0, .seImm 0 0, .sneImm 0 0, .seReg 0 0 0, .ldImm 0 0, .addImm 0 0].map
    Instr.row ++
  [Instr.ldReg 0 0, .orReg 0 0, .andReg 0 0, .xorReg 0 0, .addReg 0 0, .sub 0 0, .shr 0 0, .subn 0 0,
    .shl 0 0, .sneReg 0 0 0].map Instr.row ++
  [Instr.ldI 0, .jpV0 0, .rnd 0 0, .drw 0 0 0, .skp 0, .sknp 0].map Instr.row ++
  [Instr.ldVxDt 0, .ldVxK 0, .ldDtVx 0, .ldStVx 0, .addIVx 0, .ldFVx 0, .ldBVx 0, .ldMemVx 0, .ldVxMem 0].map
    Instr.row

end Sys2Proof
end

