-- ==== Sys2Proof/Machine/State.lean ====
section
/-!
DEFINITION. The machine's state as plain data: the table of 10_state R20, one field a row, and the model's own two
fields `params` (00_scope R6) and `env` (R9, R11: what comes from outside the core). The faults, the refusals, and the
state after reset (R40).
-/
namespace Sys2Proof.Machine

/-- The six faults of R190. NO STEP ENDS IN ONE: a fault is taken, its entry (R200, `State.raise`) is a next state
with `STATUS = HALTED`. The type names which fault the entry records. -/
inductive Fault
  /-- An illegal word (R88, R192). Raised by the Step event at decode, and by SYS under `SYS_POLICY = fatal`. Safe:
  the spec's own fault. -/
  | decodeError
  /-- 2NNN with `sp` = 16 (R193). Raised by CALL. Safe: the spec's own fault. -/
  | stackOverflow
  /-- 00EE with `sp` = 0 (R194). Raised by RET. Safe: the spec's own fault. -/
  | stackUnderflow
  /-- A register index outside 0 to 15 (R89). Raised by nobody: the fields are 4 bits wide (R195). Safe. -/
  | operandRangeError
  /-- A Memory address above 4095 (R52, R196). Raised by the Step event at fetch and by DRW, LD B, LD [I] and
  LD Vx,[I]. Safe: the spec's decision D9 errs toward unprovable. -/
  | addressRangeError
  /-- A key index above 15 (R124, R197). Raised by SKP and SKNP. Safe: the spec's decision D11 errs toward
  unprovable. -/
  | keyIndexError
  deriving DecidableEq, Repr

/-- Where the model gives no meaning. -/
inductive Refusal
  /-- An instruction with no meaning yet, by its mnemonic. Answered by no arm of exec. Safe. -/
  | notModelled (mnemonic : String)
  /-- `Reset(image)` with an image of more than 3584 bytes (R233: "a model refuses a longer image"). Answered by the
  Reset event. Safe: it errs toward unprovable (D19). -/
  | imageTooLong (length : Nat)
  deriving DecidableEq, Repr

/-- `STATUS` (R34): a 2-bit register with three legal values; "Value 3 is never produced". -/
inductive Status
  | running
  | awaitKey
  | halted
  deriving DecidableEq, Repr

/-- Memory: the bytes that differ from their reset content, addresses rising (20_memory R50; see `Memory.wf`). -/
abbrev Memory := List Host.Cell

/-- `D[y][x]` (R33): 32 rows of 64 pixels; row 0 first, column 0 first. -/
abbrev Display := Vector (Vector Bool 64) 32

/-- The five events of R9. -/
inductive Event
  /-- `Reset(image)` -/
  | reset (image : List Byte)
  /-- `Step(keys, rnd)` -/
  | step (keys : BitVec 16) (rnd : Byte)
  /-- `KeyEvent(k)` -/
  | keyEvent (k : Nibble)
  /-- `Tick` -/
  | tick
  /-- A host read: read-only. -/
  | hostRead
  deriving DecidableEq, Repr

/-- What the model holds of the environment (log entries 1, 2, 6). -/
structure Env where
  /-- The `keys` argument of the Step being performed (R11, R37). -/
  keys    : BitVec 16
  /-- The `rnd` argument of the Step being performed (R11, R134). -/
  rnd     : Byte
  /-- How many events came from the free values of Config. -/
  draws   : Nat
  /-- The events the environment has scripted, oldest first. -/
  pending : List Event
  /-- The level of `rst` (R11) after the signals presented so far: `none` at 0; at 1 the writes of the load port (index,
  byte) since it rose, oldest first (log entry 6). -/
  loading : Option (List (BitVec 12 × Byte))
  deriving DecidableEq, Repr

structure State where
  /-- `MEM[0..4095]` (R50) -/
  mem    : Memory
  /-- `V[0..15]` (R21) -/
  v      : Vector Byte 16
  /-- The address register `I` (R24) -/
  i      : Word
  /-- R25 -/
  pc     : Word
  /-- The number of return addresses on the stack, 0 to 16 (R29) -/
  sp     : Fin 17
  /-- `STK[0..15]` (R30) -/
  stk    : Vector Word 16
  /-- The delay timer `DT` (R31) -/
  dt     : Byte
  /-- The sound timer `ST` (R32) -/
  st     : Byte
  /-- The Display Buffer `D` (R33) -/
  d      : Display
  /-- `STATUS` (R34) -/
  status : Status
  /-- `KX` (R35) -/
  kx     : Nibble
  /-- `FCODE` (R36, R191) -/
  fcode  : BitVec 3
  /-- `FPC` (R36) -/
  fpc    : Word
  /-- `FWORD` (R36) -/
  fword  : Word
  /-- The open parameters of R6; written by no event (log entry 3). -/
  params : Config.Params
  /-- The environment's side (log entries 1, 2, 6). -/
  env    : Env
  deriving DecidableEq, Repr

/-- The table of R40 for an empty image, with the default parameters and nothing known of the environment. Memory
lists nothing: every byte reads as its reset content (`Memory.resetByte`). -/
def State.reset : State :=
  { mem := [], v := Vector.replicate 16 0, i := 0, pc := 0x200, sp := 0, stk := Vector.replicate 16 0,
    dt := 0, st := 0, d := Vector.replicate 32 (Vector.replicate 64 false),
    status := .running, kx := 0, fcode := 0, fpc := 0, fword := 0,
    params := Config.defaults, env := { keys := 0, rnd := 0, draws := 0, pending := [], loading := none } }

end Sys2Proof.Machine
end

