-- ==== Sys2Proof/Machine/Ops.lean ====
section
/-!
DEFINITION. The named operations over memory, registers, stack and display, and taking a fault (60_exceptions R200),
which every meaning is written with; at the end, what the environment presents next.
-/
namespace Sys2Proof.Machine

/-! ### Memory (20_memory) -/

/-- `FONT_DATA[j]` for `j` below 80: glyph `j / 5`, its byte `j % 5` (R6, R56). -/
def fontByte (p : Config.Params) (j : Nat) : Byte :=
  (p.fontData[Fin.ofNat 16 (j / 5)])[Fin.ofNat 5 (j % 5)]

/-- What an address reads as that nothing has written since reset: the first two layers of R231. -/
def Memory.resetByte (p : Config.Params) (a : Nat) : Byte :=
  if p.fontBase.val ≤ a ∧ a < p.fontBase.val + 80 then fontByte p (a - p.fontBase.val) else 0

/-- `MemRead(a, 1)` for an address in range. -/
def Memory.read (p : Config.Params) (m : Memory) (a : Nat) : Byte :=
  match m with
  | [] => Memory.resetByte p a
  | (b, w) :: rest => if a = b then w else Memory.read p rest a

/-- `MemWrite(a, 1, w)` for an address in range. Keeps the list's form: writing the reset content removes the
entry. -/
def Memory.write (p : Config.Params) (m : Memory) (a : Nat) (w : Byte) : Memory :=
  match m with
  | [] => if w = Memory.resetByte p a then [] else [(a, w)]
  | (b, u) :: rest =>
    if a < b then (if w = Memory.resetByte p a then (b, u) :: rest else (a, w) :: (b, u) :: rest)
    else if a = b then (if w = Memory.resetByte p a then rest else (a, w) :: rest)
    else (b, u) :: Memory.write p rest a w

/-- Bytes to ascending addresses from `a` on (R59). -/
def Memory.writeBytes (p : Config.Params) (m : Memory) (a : Nat) : List Byte → Memory
  | [] => m
  | w :: rest => Memory.writeBytes p (Memory.write p m a w) (a + 1) rest

/-- The list's form from address `lo` on: addresses at least `lo`, strictly rising, below 4096, no entry equal to its
reset content. -/
def Memory.wfFrom (p : Config.Params) (lo : Nat) : Memory → Bool
  | [] => true
  | (a, w) :: rest =>
    decide (lo ≤ a) && decide (a < 4096) && decide (w ≠ Memory.resetByte p a) && Memory.wfFrom p (a + 1) rest

/-- The canonical form of a memory: equal memories are equal lists. -/
def Memory.wf (p : Config.Params) (m : Memory) : Bool := Memory.wfFrom p 0 m

/-- The range test of R52 on the whole span of an access of `n` bytes at `base`, in unbounded naturals (R53): some
byte is above 4095. No byte, no fault. -/
def spanFaults (base n : Nat) : Bool := decide (0 < n ∧ 4095 < base + n - 1)

namespace State

/-- The byte at `a`. -/
def readByte (s : State) (a : Nat) : Byte := Memory.read s.params s.mem a

/-- `n` bytes at ascending addresses from `a` on. -/
def readBytes (s : State) (a n : Nat) : List Byte := (List.range n).map fun k => s.readByte (a + k)

/-- Bytes stored at ascending addresses from `a` on. -/
def storeBytes (s : State) (a : Nat) (bytes : List Byte) : State :=
  { s with mem := Memory.writeBytes s.params s.mem a bytes }

/-- Instruction fetch `MEM[pc] :: MEM[pc+1]`, big-endian (R58). -/
def fetchWord (s : State) : Word := wordOf (s.readByte s.pc.toNat) (s.readByte (s.pc.toNat + 1))

/-! ### Registers (10_state) -/

/-- `V[x]` -/
def reg (s : State) (x : Nibble) : Byte := s.v[x.toNat]'(x.isLt)

/-- `V[x] <- b` -/
def writeReg (s : State) (x : Nibble) (b : Byte) : State := { s with v := s.v.set x.toNat b x.isLt }

/-- `V[i] <- f i` for all `i` from 0 to `x`; the registers above `x` keep their values (R184). -/
def writeRegsTo (s : State) (x : Nibble) (f : Nat → Byte) : State :=
  { s with v := Vector.ofFn fun k : Fin 16 => if k.val ≤ x.toNat then f k.val else s.v[k] }

/-- `V[0], ..., V[x]` in ascending order (R183). -/
def regsTo (s : State) (x : Nibble) : List Byte := s.v.toList.take (x.toNat + 1)

/-- `I <- w` -/
def setI (s : State) (w : Word) : State := { s with i := w }

/-- `pc <- w` -/
def setPc (s : State) (w : Word) : State := { s with pc := w }

/-- `DT <- b` -/
def setDt (s : State) (b : Byte) : State := { s with dt := b }

/-- `ST <- b` -/
def setSt (s : State) (b : Byte) : State := { s with st := b }

/-- `pc <- pc + 2` (R26). -/
def advance (s : State) : State := s.setPc (s.pc + 2)

/-- `pc <- pc + 4` if the condition holds, else `pc <- pc + 2` (R119). -/
def skipIf (s : State) (c : Bool) : State := s.setPc (if c then s.pc + 4 else s.pc + 2)

/-! ### The call stack (R29, R30) -/

/-- `STK[sp] <- w; sp <- sp + 1`. CALL has already faulted at `sp` = 16 (R113). -/
def push (s : State) (w : Word) : State :=
  { s with
    stk := s.stk.setIfInBounds s.sp.val w
    sp := ⟨min (s.sp.val + 1) 16, Nat.lt_succ_of_le (Nat.min_le_right _ _)⟩ }

/-- `sp <- sp - 1`; the popped entry stays in `STK` (R111). RET has already faulted at
`sp` = 0. -/
def pop (s : State) : State :=
  { s with sp := ⟨s.sp.val - 1, Nat.lt_of_le_of_lt (Nat.sub_le _ _) s.sp.isLt⟩ }

/-- `STK[sp - 1]`, the entry RET takes. -/
def top (s : State) : Word := s.stk[Fin.ofNat 16 (s.sp.val - 1)]

/-! ### The display (R33) -/

/-- `D[y][x]` -/
def pixel (s : State) (x : Fin 64) (y : Fin 32) : Bool := s.d[y][x]

/-- `D <- d` -/
def setDisplay (s : State) (d : Display) : State := { s with d := d }

/-! ### The key wait (R173, R174) -/

/-- `KX <- x; STATUS <- AWAIT_KEY`; `pc` is not changed. -/
def beginWait (s : State) (x : Nibble) : State := { s with kx := x, status := .awaitKey }

/-- `STATUS <- RUNNING` -/
def resume (s : State) : State := { s with status := .running }

end State

/-! ### Faults -/

/-- `FCODE` of a fault (R191). -/
def Fault.code : Fault → BitVec 3
  | .decodeError       => 1
  | .stackOverflow     => 2
  | .stackUnderflow    => 3
  | .operandRangeError => 4
  | .addressRangeError => 5
  | .keyIndexError     => 6

/-- `raise E(pc, w)`: the fault entry of R200, "exactly these writes and no others". There is no return from it
(R202). -/
def State.raise (s : State) (e : Fault) (w : Word) : State :=
  { s with fcode := e.code, fpc := s.pc, fword := w, status := .halted }

/-! ### The environment (R9, R11) -/

/-- Write the arguments of the Step being performed. -/
def State.sampleInputs (s : State) (keys : BitVec 16) (rnd : Byte) : State :=
  { s with env := { s.env with keys := keys, rnd := rnd } }

/-- The `n`-th event the environment does not script: any of the five of R9, with any arguments; a Reset has an image
that fits, R9's precondition (log entry 1). -/
def freeEvent (n : Nat) : Event :=
  match Config.freeKind n with
  | .reset    => .reset ((Config.freeImage n).take 3584)
  | .step     => .step (Config.freeKeys n) (Config.freeRnd n)
  | .keyEvent => .keyEvent (Config.freeKey n)
  | .tick     => .tick
  | .hostRead => .hostRead

/-- The image the load port wrote (R11, R232): byte `k` is the last one written at index `k`, else 0. An index above
3583 is outside the port's range and is dropped (log entry 6). -/
def loadedImage (writes : List (BitVec 12 × Byte)) : List Byte :=
  (List.range 3584).map fun k =>
    match writes.reverse.find? fun p => p.1.toNat = k with
    | some p => p.2
    | none   => 0

/-- The next event and the state that has taken it: the oldest the environment's list holds; where the list is empty,
while `rst` is 1 the core is held in reset (log entry 6), else a free event (log entry 1). -/
def State.takeEvent (s : State) : Event × State :=
  match s.env.pending, s.env.loading with
  | e :: rest, _    => (e, { s with env := { s.env with pending := rest } })
  | [], some writes => (.reset (loadedImage writes), s)
  | [], none        => (freeEvent s.env.draws, { s with env := { s.env with draws := s.env.draws + 1 } })

end Sys2Proof.Machine
end

