-- ==== Sys2Proof/Machine/Operands.lean ====
section
/-!
DEFINITION. The operand forms: an immediate is used as it sits in the word, widened with zeros (30_encoding R83);
the shifted register (43_alu R148); the key index (41_skip R124). The one data addressing mode is `I` as an unbounded natural plus a
byte index (20_memory R53, 46_index_mem R186): `s.i.toNat + k`.
-/
namespace Sys2Proof.Machine

/-- `zext_16(NNN)` (R83). -/
def addrWord (nnn : Addr) : Word := nnn.setWidth 16

/-- `zext_16(b)` (R15). -/
def byteWord (b : Byte) : Word := b.setWidth 16

/-- `zext_8(k)` (R174). -/
def nibbleByte (k : Nibble) : Byte := k.setWidth 8

/-- `FONT_BASE + 5 * d`, `d` the low nibble of `b` (R181). -/
def glyphAddress (p : Config.Params) (b : Byte) : Word :=
  BitVec.ofNat 16 (p.fontBase.val + 5 * (b.toNat % 16))

/-- Hundreds, tens, units of a byte (R182). -/
def decimalDigits (b : Byte) : List Byte :=
  [BitVec.ofNat 8 (b.toNat / 100), BitVec.ofNat 8 (b.toNat / 10 % 10), BitVec.ofNat 8 (b.toNat % 10)]

namespace State

/-- The operand of 8XY6 and 8XYE: `V[X]` if `SHIFT_SRC = VX`, else `V[Y]` (R148). -/
def shiftOperand (s : State) (x y : Nibble) : Byte :=
  match s.params.shiftSrc with
  | .vx => s.reg x
  | .vy => s.reg y

/-- The key index is the whole byte `V[X]`; there is no key above 15 (R124). -/
def keyIndexFaults (s : State) (x : Nibble) : Bool := decide (15 < (s.reg x).toNat)

/-- `keys[V[X]]` (R125), `keys` the snapshot of this Step. -/
def keyPressed (s : State) (x : Nibble) : Bool := s.env.keys.getLsbD (s.reg x).toNat

end State

end Sys2Proof.Machine
end

