-- ==== Sys2Proof/Machine/Flags.lean ====
section
/-!
DEFINITION. The values VF takes (10_state R23) and the order in which result and flag are written (43_alu R141).
-/
namespace Sys2Proof.Machine

/-- The flag register VF (R22). -/
def flagReg : Nibble := 15

/-- A flag as a register value: 1 or 0. -/
def flagByte (c : Bool) : Byte := if c then 1 else 0

/-- Carry out of an add: `a + b > 255` (R146). -/
def carry (a b : Byte) : Bool := decide (255 < a.toNat + b.toNat)

/-- No borrow: the minuend is not smaller than the subtrahend (R147, R149). -/
def notBorrow (minuend subtrahend : Byte) : Bool := decide (subtrahend.toNat ≤ minuend.toNat)

/-- Bit 0 of the operand of a right shift (R148). -/
def shiftedOutRight (b : Byte) : Bool := b.getLsbD 0

/-- Bit 7 of the operand of a left shift (R150). -/
def shiftedOutLeft (b : Byte) : Bool := b.getLsbD 7

/-- `V[X] <- result`, then `V[15] <- flag`: "last: when X = 15 the flag replaces the result" (R141). -/
def State.writeResultFlag (s : State) (x : Nibble) (result : Byte) (flag : Bool) : State :=
  (s.writeReg x result).writeReg flagReg (flagByte flag)

end Sys2Proof.Machine
end

