-- ==== Sys2Proof/Machine/Alu.lean ====
section
/-!
DEFINITION. The register-to-register ALU family (43_alu). Operands are read before anything is written (R140); all
results are modulo 256.
-/
namespace Sys2Proof.Machine

/-- 8XY0 LD (R142). -/
def execLdReg (x y : Nibble) (s : State) : Host.Outcome State Fault Refusal :=
  .next (s.writeReg x (s.reg y)).advance

/-- 8XY1 OR (R143); VF is not written (R151). -/
def execOr (x y : Nibble) (s : State) : Host.Outcome State Fault Refusal :=
  .next (s.writeReg x (s.reg x ||| s.reg y)).advance

/-- 8XY2 AND (R144); VF is not written (R151). -/
def execAnd (x y : Nibble) (s : State) : Host.Outcome State Fault Refusal :=
  .next (s.writeReg x (s.reg x &&& s.reg y)).advance

/-- 8XY3 XOR (R145); VF is not written (R151). -/
def execXor (x y : Nibble) (s : State) : Host.Outcome State Fault Refusal :=
  .next (s.writeReg x (s.reg x ^^^ s.reg y)).advance

/-- 8XY4 ADD (R146). -/
def execAddReg (x y : Nibble) (s : State) : Host.Outcome State Fault Refusal :=
  .next (s.writeResultFlag x (s.reg x + s.reg y) (carry (s.reg x) (s.reg y))).advance

/-- 8XY5 SUB (R147). -/
def execSub (x y : Nibble) (s : State) : Host.Outcome State Fault Refusal :=
  .next (s.writeResultFlag x (s.reg x - s.reg y) (notBorrow (s.reg x) (s.reg y))).advance

/-- 8XY6 SHR (R148). -/
def execShr (x y : Nibble) (s : State) : Host.Outcome State Fault Refusal :=
  .next (s.writeResultFlag x (s.shiftOperand x y >>> 1) (shiftedOutRight (s.shiftOperand x y))).advance

/-- 8XY7 SUBN (R149). -/
def execSubn (x y : Nibble) (s : State) : Host.Outcome State Fault Refusal :=
  .next (s.writeResultFlag x (s.reg y - s.reg x) (notBorrow (s.reg y) (s.reg x))).advance

/-- 8XYE SHL (R150). -/
def execShl (x y : Nibble) (s : State) : Host.Outcome State Fault Refusal :=
  .next (s.writeResultFlag x (s.shiftOperand x y <<< 1) (shiftedOutLeft (s.shiftOperand x y))).advance

end Sys2Proof.Machine
end

