-- ==== Sys2Proof/Machine/Draw.lean ====
section
/-!
DEFINITION. The display instructions and the sprite-draw engine (44_display).
-/
namespace Sys2Proof.Machine

/-- One bit of a sprite at unwrapped column `x` and row `y`: each coordinate is wrapped by itself (R163), the pixel is
XORed, and a pixel going from on to off is a collision (R164). -/
def blitBit (x y : Nat) (bit : Bool) (acc : Display × Bool) : Display × Bool :=
  let row := Fin.ofNat 32 y
  let col := Fin.ofNat 64 x
  let old := acc.1[row][col]
  let new := old ^^ bit
  (acc.1.set row (acc.1[row].set col new), acc.2 || (old && !new))

/-- One sprite byte: bit `7 - c` lands at column `x0 + c` (R162). -/
def blitRow (x0 y : Nat) (b : Byte) (acc : Display × Bool) : Display × Bool :=
  (List.range 8).foldl (fun acc c => blitBit (x0 + c) y (b.getLsbD (7 - c)) acc) acc

/-- The sprite's bytes on rows `y`, `y + 1`, ... (R161). -/
def blitRows (x0 y : Nat) : List Byte → Display × Bool → Display × Bool
  | [], acc => acc
  | b :: rest, acc => blitRows x0 (y + 1) rest (blitRow x0 y b acc)

/-- The buffer after a draw, and whether any pixel collided. -/
def State.blit (s : State) (x y n : Nibble) : Display × Bool :=
  blitRows (s.reg x).toNat (s.reg y).toNat (s.readBytes s.i.toNat n.toNat) (s.d, false)

/-- 00E0 CLS (R160). -/
def execCls (s : State) : Host.Outcome State Fault Refusal :=
  .next (s.setDisplay (Vector.replicate 32 (Vector.replicate 64 false))).advance

/-- DXYN DRW (R161): the span check comes first, VF is written last, `I` keeps its value (R166). -/
def execDrw (x y n : Nibble) (s : State) : Host.Outcome State Fault Refusal :=
  if spanFaults s.i.toNat n.toNat then .next (s.raise .addressRangeError (encode (.drw x y n)))
  else .next (((s.setDisplay (s.blit x y n).1).writeReg flagReg (flagByte (s.blit x y n).2)).advance)

end Sys2Proof.Machine
end

