-- ==== Sys2Proof/Machine/Flow.lean ====
section
/-!
DEFINITION. Control transfer (40_flow).
-/
namespace Sys2Proof.Machine

/-- 0NNN SYS (R110): a no-op, or under `SYS_POLICY = fatal` the DecodeError that the decoder already raises. -/
def execSys (nnn : Addr) (s : State) : Host.Outcome State Fault Refusal :=
  .next (match s.params.sysPolicy with
    | .nop   => s.advance
    | .fatal => s.raise .decodeError (encode (.sys nnn)))

/-- 00EE RET (R111). -/
def execRet (s : State) : Host.Outcome State Fault Refusal :=
  if s.sp = 0 then .next (s.raise .stackUnderflow (encode .ret))
  else .next (s.pop.setPc s.top)

/-- 1NNN JP (R112). -/
def execJp (nnn : Addr) (s : State) : Host.Outcome State Fault Refusal :=
  .next (s.setPc (addrWord nnn))

/-- 2NNN CALL (R113): the pushed value is `pc + 2`. -/
def execCall (nnn : Addr) (s : State) : Host.Outcome State Fault Refusal :=
  if s.sp = 16 then .next (s.raise .stackOverflow (encode (.call nnn)))
  else .next ((s.push (s.pc + 2)).setPc (addrWord nnn))

/-- BNNN JP V0 (R114): the sum is not reduced modulo 4096. -/
def execJpV0 (nnn : Addr) (s : State) : Host.Outcome State Fault Refusal :=
  .next (s.setPc (addrWord nnn + byteWord (s.reg 0)))

end Sys2Proof.Machine
end

