-- ==== Sys2Proof/Machine/IndexMem.lean ====
section
/-!
DEFINITION. Address register arithmetic and memory transfer (46_index_mem). `I` is not modified by FX33, FX55 or FX65
(R185).
-/
namespace Sys2Proof.Machine

/-- FX1E ADD I, Vx (R180): modulo 65536, no flag. -/
def execAddIVx (x : Nibble) (s : State) : Host.Outcome State Fault Refusal :=
  .next (s.setI (s.i + byteWord (s.reg x))).advance

/-- FX29 LD F, Vx (R181). -/
def execLdFVx (x : Nibble) (s : State) : Host.Outcome State Fault Refusal :=
  .next (s.setI (glyphAddress s.params (s.reg x))).advance

/-- FX33 LD B, Vx (R182). -/
def execLdBVx (x : Nibble) (s : State) : Host.Outcome State Fault Refusal :=
  if spanFaults s.i.toNat 3 then .next (s.raise .addressRangeError (encode (.ldBVx x)))
  else .next (s.storeBytes s.i.toNat (decimalDigits (s.reg x))).advance

/-- FX55 LD [I], Vx (R183): X + 1 bytes. -/
def execLdMemVx (x : Nibble) (s : State) : Host.Outcome State Fault Refusal :=
  if spanFaults s.i.toNat (x.toNat + 1) then .next (s.raise .addressRangeError (encode (.ldMemVx x)))
  else .next (s.storeBytes s.i.toNat (s.regsTo x)).advance

/-- FX65 LD Vx, [I] (R184): X + 1 bytes. -/
def execLdVxMem (x : Nibble) (s : State) : Host.Outcome State Fault Refusal :=
  if spanFaults s.i.toNat (x.toNat + 1) then .next (s.raise .addressRangeError (encode (.ldVxMem x)))
  else .next (s.writeRegsTo x fun k => s.readByte (s.i.toNat + k)).advance

end Sys2Proof.Machine
end

