-- ==== Sys2Proof/Machine/LoadImm.lean ====
section
/-!
DEFINITION. Immediate loads and random (42_load_imm).
-/
namespace Sys2Proof.Machine

/-- 6XNN LD (R130). -/
def execLdImm (x : Nibble) (nn : Byte) (s : State) : Host.Outcome State Fault Refusal :=
  .next (s.writeReg x nn).advance

/-- 7XNN ADD (R131): modulo 256, no flag. -/
def execAddImm (x : Nibble) (nn : Byte) (s : State) : Host.Outcome State Fault Refusal :=
  .next (s.writeReg x (s.reg x + nn)).advance

/-- ANNN LD I (R132). -/
def execLdI (nnn : Addr) (s : State) : Host.Outcome State Fault Refusal :=
  .next (s.setI (addrWord nnn)).advance

/-- CXNN RND (R133): `rnd` is the argument of this Step (R134). -/
def execRnd (x : Nibble) (nn : Byte) (s : State) : Host.Outcome State Fault Refusal :=
  .next (s.writeReg x (s.env.rnd &&& nn)).advance

end Sys2Proof.Machine
end

