-- ==== Sys2Proof/Machine/Skip.lean ====
section
/-!
DEFINITION. Conditional skips (41_skip).
-/
namespace Sys2Proof.Machine

/-- 3XNN SE (R120). -/
def execSeImm (x : Nibble) (nn : Byte) (s : State) : Host.Outcome State Fault Refusal :=
  .next (s.skipIf (decide (s.reg x = nn)))

/-- 4XNN SNE (R121). -/
def execSneImm (x : Nibble) (nn : Byte) (s : State) : Host.Outcome State Fault Refusal :=
  .next (s.skipIf (decide (s.reg x ≠ nn)))

/-- 5XY0 SE (R122); the low nibble is not examined (R91). -/
def execSeReg (x y : Nibble) (s : State) : Host.Outcome State Fault Refusal :=
  .next (s.skipIf (decide (s.reg x = s.reg y)))

/-- 9XY0 SNE (R123); the low nibble is not examined (R91). -/
def execSneReg (x y : Nibble) (s : State) : Host.Outcome State Fault Refusal :=
  .next (s.skipIf (decide (s.reg x ≠ s.reg y)))

/-- EX9E SKP (R125). -/
def execSkp (x : Nibble) (s : State) : Host.Outcome State Fault Refusal :=
  if s.keyIndexFaults x then .next (s.raise .keyIndexError (encode (.skp x)))
  else .next (s.skipIf (s.keyPressed x))

/-- EXA1 SKNP (R126). -/
def execSknp (x : Nibble) (s : State) : Host.Outcome State Fault Refusal :=
  if s.keyIndexFaults x then .next (s.raise .keyIndexError (encode (.sknp x)))
  else .next (s.skipIf (!s.keyPressed x))

end Sys2Proof.Machine
end

