-- ==== Sys2Proof/Machine/TimerKey.lean ====
section
/-!
DEFINITION. Timer access and the key wait (45_timer_key).
-/
namespace Sys2Proof.Machine

/-- FX07 LD Vx, DT (R170). -/
def execLdVxDt (x : Nibble) (s : State) : Host.Outcome State Fault Refusal :=
  .next (s.writeReg x s.dt).advance

/-- FX0A LD Vx, K (R173): only starts the wait; `pc` keeps the address of this FX0A. -/
def execLdVxK (x : Nibble) (s : State) : Host.Outcome State Fault Refusal :=
  .next (s.beginWait x)

/-- FX15 LD DT, Vx (R171). -/
def execLdDtVx (x : Nibble) (s : State) : Host.Outcome State Fault Refusal :=
  .next (s.setDt (s.reg x)).advance

/-- FX18 LD ST, Vx (R172). -/
def execLdStVx (x : Nibble) (s : State) : Host.Outcome State Fault Refusal :=
  .next (s.setSt (s.reg x)).advance

end Sys2Proof.Machine
end

