-- ==== Sys2Proof/Machine/Events.lean ====
section
/-!
DEFINITION. The five events of 00_scope R9, each one indivisible transition (20_memory R62).
-/
namespace Sys2Proof.Machine

namespace State

/-- `Tick` (R211): both counters see the same tick; nothing while halted. -/
def tick (s : State) : State :=
  if s.status = .halted then s
  else { s with dt := if s.dt = 0 then 0 else s.dt - 1, st := if s.st = 0 then 0 else s.st - 1 }

/-- `KeyEvent(k)` (R174): completes a pending FX0A; outside the wait the event is dropped, not queued. -/
def keyEvent (s : State) (k : Nibble) : State :=
  if s.status = .awaitKey then ((s.writeReg s.kx (nibbleByte k)).advance).resume else s

/-- `Reset(image)` (R230, R231): every field of the core at its reset value, the image from 0x200 on. The parameters
and the environment are not the core's and stay. -/
def resetWith (s : State) (image : List Byte) : State :=
  { State.reset with
    mem := Memory.writeBytes s.params [] 0x200 image, params := s.params, env := s.env }

end State

/-- The body of `Step(keys, rnd)` (R85): fetch, decode, execute, the first stage that faults ending the Step (R199);
nothing while waiting or halted. -/
def cpuStep (s : State) : Host.Outcome State Fault Refusal :=
  match s.status with
  | .halted   => .next s
  | .awaitKey => .next s
  | .running  =>
    if spanFaults s.pc.toNat 2 then .next (s.raise .addressRangeError 0x0000#16)
    else
      match decode s.params.sysPolicy s.fetchWord with
      | .error _ => .next (s.raise .decodeError s.fetchWord)
      | .ok i    => exec i s

/-- What an event does. An image that does not fit is refused (R233). -/
def perform (e : Event) (s : State) : Host.Outcome State Fault Refusal :=
  match e with
  | .reset image   => if image.length ≤ 3584 then .next (s.resetWith image) else .refused (.imageTooLong image.length)
  | .step keys rnd => cpuStep (s.sampleInputs keys rnd)
  | .keyEvent k    => .next (s.keyEvent k)
  | .tick          => .next s.tick
  | .hostRead      => .next s

/-- The next event of the environment, performed. -/
def performNext (s : State) : Host.Outcome State Fault Refusal :=
  perform s.takeEvent.1 s.takeEvent.2

/-- Is this event a Step? -/
def Event.isStep : Event → Bool
  | .step _ _ => true
  | .reset _ | .keyEvent _ | .tick | .hostRead => false

/-- The state with the two bytes of a word at the pc, high byte first, and ready to fetch them at the very next
event: the core running, `rst` at 0, the pc below 4095, the environment's next event a Step (its own scripted one, else one with
free arguments). At reset only Memory and that event change (log entry 15). -/
def placeFetchWord (s : State) (w : Word) : State :=
  let ready : State :=
    { s with
      pc := if spanFaults s.pc.toNat 2 then 0x200 else s.pc
      status := .running
      env := { s.env with
        loading := none
        draws := s.env.draws + 1
        pending :=
          match s.env.pending.dropWhile fun e => !e.isStep with
          | e :: rest => e :: rest
          | []        => [.step (Config.freeKeys s.env.draws) (Config.freeRnd s.env.draws)] } }
  ready.storeBytes ready.pc.toNat [hiByte w, loByte w]

end Sys2Proof.Machine
end

