-- ==== Sys2Proof/Machine/Step.lean ====
section
/-!
DEFINITION. One step of the machine: one event of 00_scope R9.
-/
namespace Sys2Proof.Machine

/-- One atomic event: the next one the environment presents. -/
def step (s : State) : Host.Outcome State Fault Refusal := performNext s

/-- `s` with an instruction stored where the next step fetches it. -/
def State.withFetchWord (s : State) (nbits w : Nat) : State :=
  placeFetchWord s (BitVec.ofNat 16 (w % 2 ^ nbits))

end Sys2Proof.Machine
end

