-- ==== Sys2Proof/Machine/Ports.lean ====
section
/-!
DEFINITION. The signals of 00_scope R11: the outputs as functions of the state (host reads, R9, R12), and the inputs
of one instant, levels and strobes, as the events they cause, in the order of R10.
-/
namespace Sys2Proof.Machine

namespace State

/-- `disp_q = D[disp_y][disp_x]` -/
def dispQ (s : State) (x : Fin 64) (y : Fin 32) : Bool := s.pixel x y

/-- `sound_active = (ST != 0)` (R12) -/
def soundActive (s : State) : Bool := s.st != 0

/-- The `status` output: the encoding of R34. -/
def statusOut (s : State) : BitVec 2 :=
  match s.status with
  | .running  => 0
  | .awaitKey => 1
  | .halted   => 2

/-- The fault latches `fault_code`, `fault_pc`, `fault_word`. -/
def faultOut (s : State) : BitVec 3 × Word × Word := (s.fcode, s.fpc, s.fword)

end State

/-- The events one instant presents. -/
structure Edge where
  /-- A Reset, with these writes through the load port (index, byte), oldest first. -/
  reset  : Option (List (BitVec 12 × Byte))
  /-- A Step with its `keys` and `rnd`. -/
  step   : Option (BitVec 16 × Byte)
  /-- A KeyEvent with its `k`. -/
  keyEvt : Option Nibble
  /-- A Tick. -/
  tick   : Bool
  deriving DecidableEq, Repr

/-- R10: Reset cancels the others; else Step, KeyEvent, Tick. -/
def Edge.events (e : Edge) : List Event :=
  match e.reset with
  | some writes => [.reset (loadedImage writes)]
  | none =>
    (match e.step with | some (keys, rnd) => [.step keys rnd] | none => []) ++
    (match e.keyEvt with | some k => [.keyEvent k] | none => []) ++
    (if e.tick then [.tick] else [])

/-- The input signals of R11 in one instant, at their exact widths. The read address of the display is an argument of
`dispQ`. -/
structure Signals where
  rst     : Bool
  ldWe    : Bool
  ldIndex : BitVec 12
  ldData  : Byte
  step    : Bool
  keys    : BitVec 16
  rnd     : Byte
  keyEvt  : Bool
  keyId   : Nibble
  tick    : Bool
  deriving DecidableEq, Repr

/-- The write the load port makes in an instant in which it is open. -/
def Signals.write (g : Signals) : List (BitVec 12 × Byte) := if g.ldWe then [(g.ldIndex, g.ldData)] else []

/-- The strobes of an instant, each with what it samples. -/
def Signals.edge (g : Signals) (reset : Option (List (BitVec 12 × Byte))) : Edge :=
  { reset  := reset
    step   := if g.step then some (g.keys, g.rnd) else none
    keyEvt := if g.keyEvt then some g.keyId else none
    tick   := g.tick }

/-- The environment presents the signals of one more instant (R11, log entry 6). While `rst` is 1 the core is held in
reset, the bytes loaded so far in Memory, and no strobe has an effect: a Reset with those bytes. In the instant `rst`
falls the Reset is complete, and cancels what is presented with it (R235). Else the strobes, and the load port is
ignored. -/
def State.present (s : State) (g : Signals) : State :=
  match g.rst, s.env.loading with
  | true, before =>
    let writes := before.getD [] ++ g.write
    { s with env := { s.env with pending := s.env.pending ++ (g.edge (some writes)).events, loading := some writes } }
  | false, some writes =>
    { s with env := { s.env with pending := s.env.pending ++ (g.edge (some writes)).events, loading := none } }
  | false, none =>
    { s with env := { s.env with pending := s.env.pending ++ (g.edge none).events } }

end Sys2Proof.Machine
end

