-- ==== Sys2Proof/Safety.lean ====
section
/-!
DEFINITION. The terms claims are stated in: what a failed run is (60_exceptions R202), the parts of the state an
instruction may leave alone (10_state R39), the fault entry as a relation (R200), the fault table (R198), the pc table
(R26), the invariant of reachable states (R41).
-/
namespace Sys2Proof.Machine

/-! ### Failed runs -/

/-- R202: "A model must treat a halted state as a failed run and never as a normal end of the program." -/
def State.Failed (s : State) : Prop := s.status = .halted

/-- A safe outcome: a next state that is no failed run. -/
def SafeOutcome (o : Host.Outcome State Fault Refusal) : Prop := ∃ t, o = .next t ∧ ¬ t.Failed

/-! ### Frames -/

/-- The parts of the state that R39's table names, one a row of R20 (the three fault latches together), and the
model's own two fields. -/
inductive Part
  | memory | gpr | addressReg | pc | stack | delay | sound | display | status | keyLatch | faultLatches | params | env
  deriving DecidableEq, Repr

/-- `t` has this part as `s` has it. Memory: every address reads the same. -/
def State.Keeps (s t : State) : Part → Prop
  | .memory       => ∀ a, t.readByte a = s.readByte a
  | .gpr          => ∀ r, t.reg r = s.reg r
  | .addressReg   => t.i = s.i
  | .pc           => t.pc = s.pc
  | .stack        => t.sp = s.sp ∧ t.stk = s.stk
  | .delay        => t.dt = s.dt
  | .sound        => t.st = s.st
  | .display      => ∀ x y, t.pixel x y = s.pixel x y
  | .status       => t.status = s.status
  | .keyLatch     => t.kx = s.kx
  | .faultLatches => t.fcode = s.fcode ∧ t.fpc = s.fpc ∧ t.fword = s.fword
  | .params       => t.params = s.params
  | .env          => t.env = s.env

/-- Only the listed parts may differ. -/
def State.KeepsAllBut (s t : State) (changed : List Part) : Prop := ∀ p, p ∉ changed → s.Keeps t p

/-- Every register but the listed ones is unchanged. -/
def State.KeepsRegsBut (s t : State) (changed : List Nibble) : Prop := ∀ r, r ∉ changed → t.reg r = s.reg r

/-- The parts an instruction writes when it does not fault: the "writes" column of R39, and `pc`. -/
def writtenParts : Instr → List Part
  | .cls => [.display, .pc]
  | .ret | .call _ => [.stack, .pc]
  | .sys _ | .jp _ | .jpV0 _ => [.pc]
  | .seImm _ _ | .sneImm _ _ | .seReg _ _ _ | .sneReg _ _ _ | .skp _ | .sknp _ => [.pc]
  | .ldImm _ _ | .addImm _ _ | .rnd _ _ | .ldVxDt _ | .ldVxMem _ => [.gpr, .pc]
  | .ldReg _ _ | .orReg _ _ | .andReg _ _ | .xorReg _ _ => [.gpr, .pc]
  | .addReg _ _ | .sub _ _ | .shr _ _ | .subn _ _ | .shl _ _ => [.gpr, .pc]
  | .ldI _ | .addIVx _ | .ldFVx _ => [.addressReg, .pc]
  | .drw _ _ _ => [.display, .gpr, .pc]
  | .ldVxK _ => [.status, .keyLatch]
  | .ldDtVx _ => [.delay, .pc]
  | .ldStVx _ => [.sound, .pc]
  | .ldBVx _ | .ldMemVx _ => [.memory, .pc]

/-- The registers an instruction writes when it does not fault (R39, R23). -/
def writtenRegs : Instr → List Nibble
  | .cls | .ret | .sys _ | .jp _ | .call _ | .seImm _ _ | .sneImm _ _ | .seReg _ _ _ | .sneReg _ _ _ => []
  | .ldI _ | .jpV0 _ | .skp _ | .sknp _ | .ldVxK _ | .ldDtVx _ | .ldStVx _ | .addIVx _ | .ldFVx _ => []
  | .ldBVx _ | .ldMemVx _ => []
  | .ldImm x _ | .addImm x _ | .rnd x _ | .ldVxDt x => [x]
  | .ldReg x _ | .orReg x _ | .andReg x _ | .xorReg x _ => [x]
  | .addReg x _ | .sub x _ | .shr x _ | .subn x _ | .shl x _ => [x, 15]
  | .drw _ _ _ => [15]
  | .ldVxMem x => (List.range (x.toNat + 1)).map (BitVec.ofNat 4)

/-! ### Faults -/

/-- R200: from `s` to `t` a fault with this code and word was entered, and nothing else happened. -/
def FaultEntered (s t : State) (code : BitVec 3) (w : Word) : Prop :=
  t.fcode = code ∧ t.fpc = s.pc ∧ t.fword = w ∧ t.status = .halted ∧ s.KeepsAllBut t [.faultLatches, .status]

/-- The fault an instruction raises in a state: the execute rows of R198, and the decode row for SYS under
`SYS_POLICY = fatal` (R110). -/
def faultOf (i : Instr) (s : State) : Option Fault :=
  match i with
  | .sys _     => if s.params.sysPolicy = .fatal then some .decodeError else none
  | .ret       => if s.sp.val = 0 then some .stackUnderflow else none
  | .call _    => if s.sp.val = 16 then some .stackOverflow else none
  | .skp x     => if 15 < (s.reg x).toNat then some .keyIndexError else none
  | .sknp x    => if 15 < (s.reg x).toNat then some .keyIndexError else none
  | .drw _ _ n => if 0 < n.toNat ∧ 4095 < s.i.toNat + n.toNat - 1 then some .addressRangeError else none
  | .ldBVx _   => if 4095 < s.i.toNat + 2 then some .addressRangeError else none
  | .ldMemVx x => if 4095 < s.i.toNat + x.toNat then some .addressRangeError else none
  | .ldVxMem x => if 4095 < s.i.toNat + x.toNat then some .addressRangeError else none
  | .cls | .jp _ | .seImm _ _ | .sneImm _ _ | .seReg _ _ _ | .ldImm _ _ | .addImm _ _ | .ldReg _ _ => none
  | .orReg _ _ | .andReg _ _ | .xorReg _ _ | .addReg _ _ | .sub _ _ | .shr _ _ | .subn _ _ | .shl _ _ => none
  | .sneReg _ _ _ | .ldI _ | .jpV0 _ | .rnd _ _ | .ldVxDt _ | .ldVxK _ | .ldDtVx _ | .ldStVx _ => none
  | .addIVx _ | .ldFVx _ => none

/-! ### The pc table -/

/-- R26: the `pc` an instruction that does not fault leaves. -/
def pcAfter (i : Instr) (s : State) : Nat :=
  match i with
  | .jp nnn       => nnn.toNat
  | .call nnn     => nnn.toNat
  | .jpV0 nnn     => nnn.toNat + (s.reg 0).toNat
  | .ret          => (s.stk[Fin.ofNat 16 (s.sp.val - 1)]).toNat
  | .seImm x nn   => if s.reg x = nn then s.pc.toNat + 4 else s.pc.toNat + 2
  | .sneImm x nn  => if s.reg x ≠ nn then s.pc.toNat + 4 else s.pc.toNat + 2
  | .seReg x y _  => if s.reg x = s.reg y then s.pc.toNat + 4 else s.pc.toNat + 2
  | .sneReg x y _ => if s.reg x ≠ s.reg y then s.pc.toNat + 4 else s.pc.toNat + 2
  | .skp x        => if s.env.keys.getLsbD (s.reg x).toNat = true then s.pc.toNat + 4 else s.pc.toNat + 2
  | .sknp x       => if s.env.keys.getLsbD (s.reg x).toNat = false then s.pc.toNat + 4 else s.pc.toNat + 2
  | .ldVxK _      => s.pc.toNat
  | .cls | .sys _ | .ldImm _ _ | .addImm _ _ | .ldReg _ _ | .orReg _ _ | .andReg _ _ | .xorReg _ _ => s.pc.toNat + 2
  | .addReg _ _ | .sub _ _ | .shr _ _ | .subn _ _ | .shl _ _ | .ldI _ | .rnd _ _ | .drw _ _ _ => s.pc.toNat + 2
  | .ldVxDt _ | .ldDtVx _ | .ldStVx _ | .addIVx _ | .ldFVx _ | .ldBVx _ | .ldMemVx _ | .ldVxMem _ => s.pc.toNat + 2

/-! ### The sprite mask -/

/-- The sprite at `I`, origin `(V[X], V[Y])`, `n` rows, has a 1 bit on the pixel (column, row) = (`col`, `row`): some
byte `r` and bit position `c` wrap to it (R161 to R163). -/
def SpriteBit (s : State) (x y n : Nibble) (col : Fin 64) (row : Fin 32) : Prop :=
  ∃ r c : Nat, r < n.toNat ∧ c < 8 ∧ row.val = ((s.reg y).toNat + r) % 32 ∧ col.val = ((s.reg x).toNat + c) % 64 ∧
    (s.readByte (s.i.toNat + r)).getLsbD (7 - c) = true

/-! ### The order of coincident events -/

/-- R10: "`Reset` (which cancels the others), then `Step`, then `KeyEvent`, then `Tick`"; a host read changes
nothing. -/
def Event.rank : Event → Nat
  | .reset _    => 0
  | .step _ _   => 1
  | .keyEvent _ => 2
  | .tick       => 3
  | .hostRead   => 4

/-! ### The invariant and the reachable states -/

/-- What every event keeps: R41, with the memory's form, the bound of the live stack entries that R41's pc bound rests
on (R28), and R35's agreement of `KX` with the instruction that waits. -/
structure State.Inv (s : State) : Prop where
  memoryForm   : Memory.wf s.params s.mem = true
  codeIffHalt  : s.fcode = 0 ↔ s.status ≠ .halted
  codeProduced : s.fcode ≠ 4 ∧ s.fcode ≠ 7
  latchesClear : s.status ≠ .halted → s.fpc = 0 ∧ s.fword = 0
  pcBound      : s.pc.toNat ≤ 0x10FE
  stackBound   : ∀ j : Fin 16, j.val < s.sp.val → (s.stk[j]).toNat ≤ 4096
  waitingWord  : s.status = .awaitKey → s.pc.toNat ≤ 4094 ∧ s.fetchWord = encode (.ldVxK s.kx)

/-- The states some sequence of events leads to from a reset, for every choice of the parameters and of what the
environment will present. -/
inductive Reachable : State → Prop
  | reset (params : Config.Params) (env : Env) : Reachable { State.reset with params := params, env := env }
  | event {s t : State} : Reachable s → step s = .next t → Reachable t

end Sys2Proof.Machine
end

