-- ==== Sys2Proof/Certificates/Slice0/Obligations.lean ====
section
/-!
DEFINITION. The statements for the provers, each from numbered rules of spec/ (OBLIGATIONS.json says which). A fault
word is written out from the encoding (R90), not taken from the encoder.
-/

open Sys2Proof Sys2Proof.Machine

/-! ### Encoding and decoding (30_encoding) -/

/-- One word per family, written out bit by bit from R90, and illegal words, decode as the table says (R87, R88). -/
def Obligations.DecodesWordsWrittenFromTheTable : Prop :=
  decode .nop 0b0000_0000_1110_0000#16 = .ok .cls ∧
  decode .nop 0b0001_1111_1111_1111#16 = .ok (.jp 0xFFF) ∧
  decode .nop 0b0011_1010_0111_1111#16 = .ok (.seImm 0xA 0x7F) ∧
  decode .nop 0b0110_1010_0111_1111#16 = .ok (.ldImm 0xA 0x7F) ∧
  decode .nop 0b1000_1010_1011_1110#16 = .ok (.shl 0xA 0xB) ∧
  decode .nop 0b1101_0001_0010_1111#16 = .ok (.drw 1 2 15) ∧
  decode .nop 0b1110_1111_1010_0001#16 = .ok (.sknp 0xF) ∧
  decode .nop 0b1111_0101_0000_1010#16 = .ok (.ldVxK 5) ∧
  decode .nop 0b1111_1111_0110_0101#16 = .ok (.ldVxMem 0xF) ∧
  decode .nop 0b1000_1010_1011_1000#16 = .error (.aluSelector 8) ∧
  decode .nop 0b1110_0000_1001_1111#16 = .error (.keySelector 0x9F) ∧
  decode .nop 0b1111_0000_0111_0101#16 = .error (.miscSelector 0x75) ∧
  decode .fatal 0b0000_0001_0010_0011#16 = .error (.sysFatal 0x123)

/-- Decoding the word of a well-formed instruction gives that instruction, with every field at every value; SYS under
`SYS_POLICY = nop` (R87). -/
def Obligations.DecodeOfEncodeIsTheInstruction : Prop :=
  ∀ (policy : Config.SysPolicy) (i : Instr), i.wf = true → (policy = .nop ∨ ∀ nnn, i ≠ .sys nnn) →
    decode policy (encode i) = .ok i

/-- A word that decodes is the word of what it decodes to, and that is well-formed: no bit of a legal word is
dropped (R87, R90). -/
def Obligations.EncodeOfDecodedWordIsTheWord : Prop :=
  ∀ (policy : Config.SysPolicy) (w : Word) (i : Instr), decode policy w = .ok i → i.wf = true ∧ encode i = w

/-- The illegal words are exactly those of R88's table, under both policies. -/
def Obligations.IllegalWordsAreExactlyTheListedOnes : Prop :=
  ∀ (policy : Config.SysPolicy) (w : Word),
    (∃ e, decode policy w = .error e) ↔
      (w.toNat / 4096 = 0x8 ∧ w.toNat % 16 ∈ [0x8, 0x9, 0xA, 0xB, 0xC, 0xD, 0xF]) ∨
      (w.toNat / 4096 = 0xE ∧ w.toNat % 256 ∉ [0x9E, 0xA1]) ∨
      (w.toNat / 4096 = 0xF ∧ w.toNat % 256 ∉ [0x07, 0x0A, 0x15, 0x18, 0x1E, 0x29, 0x33, 0x55, 0x65]) ∨
      (w.toNat / 4096 = 0x0 ∧ w.toNat ≠ 0x00E0 ∧ w.toNat ≠ 0x00EE ∧ policy = .fatal)

/-- A word decodes to the instruction of the first row of R90 whose `(w & mask) = match`, and to none where no row
matches. -/
def Obligations.DecodesToTheFirstMatchingRow : Prop :=
  ∀ w : Word,
    (∀ i, decode .nop w = .ok i → opcodeMap.find? (fun r => w &&& r.1 = r.2) = some i.row) ∧
    (∀ e, decode .nop w = .error e → opcodeMap.find? (fun r => w &&& r.1 = r.2) = none)

/-! ### The step (30_encoding R85, 00_scope R9) -/

/-- When the bytes at the pc decode to an instruction and the environment's next event is a Step, a step is exec of
that instruction, on the state with the event taken and its arguments sampled: for a Step the list scripts, and for the
next event wherever it comes from (`takeEvent`, which the next statement gives). -/
def Obligations.StepRunsTheDecodedInstruction : Prop :=
  ∀ (s : State) (i : Instr), s.status = .running → s.pc.toNat + 1 ≤ 4095 →
    decodeBytes s.params.sysPolicy [s.readByte s.pc.toNat, s.readByte (s.pc.toNat + 1)] = .ok (i, []) →
    (∀ keys rnd rest, s.env.pending = .step keys rnd :: rest →
      step s = exec i { s with env := { s.env with keys := keys, rnd := rnd, pending := rest } }) ∧
    (∀ keys rnd u, s.takeEvent = (.step keys rnd, u) →
      s.KeepsAllBut u [.env] ∧ step s = exec i { u with env := { u.env with keys := keys, rnd := rnd } })

/-- A step performs the event the environment presents next: the oldest scripted one; with none scripted, while `rst` is
1 the Reset that holds the core (R11; the model's choice, log entry 6), and else an event nothing is known of, the free
value of log entry 1, so that ticks, key events, resets and Steps may come in any order (R212). -/
def Obligations.StepPerformsTheNextEvent : Prop :=
  ∀ s : State,
    (∀ e rest, s.env.pending = e :: rest →
      s.takeEvent.1 = e ∧ step s = perform e { s with env := { s.env with pending := rest } }) ∧
    (∀ writes, s.env.pending = [] → s.env.loading = some writes →
      s.takeEvent.1 = .reset (loadedImage writes) ∧ step s = perform (.reset (loadedImage writes)) s) ∧
    (s.env.pending = [] → s.env.loading = none →
      s.takeEvent.1 = freeEvent s.env.draws ∧
      step s = perform (freeEvent s.env.draws) { s with env := { s.env with draws := s.env.draws + 1 } })

/-- The `Step(keys, rnd)` event, in full (R85): nothing in HALTED or AWAIT_KEY; else the fetch fault, the decode
fault, or exactly one handler. `u` is `s` with the event's arguments sampled. -/
def Obligations.StepEventFetchesDecodesExecutes : Prop :=
  ∀ (s : State) (keys : BitVec 16) (rnd : Byte) (u : State),
    u = { s with env := { s.env with keys := keys, rnd := rnd } } →
    (s.status = .halted → perform (.step keys rnd) s = .next u) ∧
    (s.status = .awaitKey → perform (.step keys rnd) s = .next u) ∧
    (s.status = .running → s.pc.toNat + 1 > 4095 →
      ∃ t, perform (.step keys rnd) s = .next t ∧ FaultEntered u t 5 0x0000#16) ∧
    (s.status = .running → s.pc.toNat + 1 ≤ 4095 → ∀ w : Word,
      w.toNat = 256 * (s.readByte s.pc.toNat).toNat + (s.readByte (s.pc.toNat + 1)).toNat →
      (∀ e, decode s.params.sysPolicy w = .error e →
        ∃ t, perform (.step keys rnd) s = .next t ∧ FaultEntered u t 1 w) ∧
      (∀ i, decode s.params.sysPolicy w = .ok i → perform (.step keys rnd) s = exec i u))

/-- A fetch at `pc >= 4095` raises AddressRangeError with `FPC = pc` and `FWORD = 0x0000` (R86), whatever the bytes
are. -/
def Obligations.FetchBeyondMemoryFaults : Prop :=
  ∀ (s : State) (keys : BitVec 16) (rnd : Byte), s.status = .running → 4095 ≤ s.pc.toNat →
    ∃ t, perform (.step keys rnd) s = .next t ∧ t.status = .halted ∧ t.fcode = 5 ∧ t.fpc = s.pc ∧ t.fword = 0 ∧
      s.KeepsAllBut t [.status, .faultLatches, .env]

/-- The fetched word is the byte at `pc` as high byte, the byte at `pc + 1` as low byte (R58). -/
def Obligations.FetchIsBigEndian : Prop :=
  ∀ s : State,
    s.fetchWord.toNat = 256 * (s.readByte s.pc.toNat).toNat + (s.readByte (s.pc.toNat + 1)).toNat

/-- A step ends in a next state, never in a fault; it is refused only where the next event is a Reset with an image of
more than 3584 bytes (R233). -/
def Obligations.StepStopsOnlyOnOverlongImage : Prop :=
  ∀ s : State,
    (∃ t, step s = .next t) ∨
    (∃ image rest, s.env.pending = .reset image :: rest ∧ 3584 < image.length ∧
      step s = .refused (.imageTooLong image.length))

/-- The frozen machine (R202): in HALTED, Step, KeyEvent, Tick and host reads change nothing; Reset leaves HALTED and
clears the latches. -/
def Obligations.HaltedMachineIsFrozenUntilReset : Prop :=
  ∀ s : State, s.status = .halted →
    (∀ keys rnd, ∃ t, perform (.step keys rnd) s = .next t ∧ s.KeepsAllBut t [.env]) ∧
    (∀ k, perform (.keyEvent k) s = .next s) ∧
    (perform .tick s = .next s) ∧
    (perform .hostRead s = .next s) ∧
    (∀ image : List Byte, image.length ≤ 3584 →
      ∃ t, perform (.reset image) s = .next t ∧ t.status = .running ∧ t.fcode = 0 ∧ t.fpc = 0 ∧ t.fword = 0)

/-! ### Reset (70_reset_and_hazards) -/

/-- The values R40 gives, in the state after reset. -/
def Obligations.ResetStateHasTheStatedValues : Prop :=
  (∀ r, State.reset.reg r = 0) ∧ State.reset.i = 0 ∧ State.reset.pc = 0x200 ∧ State.reset.sp = 0 ∧
  (∀ j : Fin 16, State.reset.stk[j] = 0) ∧ State.reset.dt = 0 ∧ State.reset.st = 0 ∧
  (∀ x y, State.reset.pixel x y = false) ∧ State.reset.status = .running ∧ State.reset.kx = 0 ∧
  State.reset.fcode = 0 ∧ State.reset.fpc = 0 ∧ State.reset.fword = 0 ∧
  (∀ a, State.reset.readByte a =
    if State.reset.params.fontBase.val ≤ a ∧ a < State.reset.params.fontBase.val + 80 then
      fontByte State.reset.params (a - State.reset.params.fontBase.val)
    else 0)

/-- The `Reset(image)` event from any state (R230, R231): every piece of state at its reset value, Memory built in three
layers (zeros, the font at `FONT_BASE`, the image at 0x200), for every choice of the parameters. That the parameters and
the environment stay is the model's choice (log entry 12), not R230's. -/
def Obligations.ResetEventBuildsMemoryInLayers : Prop :=
  ∀ (s : State) (image : List Byte), image.length ≤ 3584 →
    ∃ t, perform (.reset image) s = .next t ∧
      (∀ k (h : k < image.length), t.readByte (0x200 + k) = image[k]) ∧
      (∀ j, j < 80 → t.readByte (s.params.fontBase.val + j) =
        (s.params.fontData[Fin.ofNat 16 (j / 5)])[Fin.ofNat 5 (j % 5)]) ∧
      (∀ a, a < 4096 → (a < 0x200 ∨ 0x200 + image.length ≤ a) →
        (a < s.params.fontBase.val ∨ s.params.fontBase.val + 80 ≤ a) → t.readByte a = 0) ∧
      (∀ r, t.reg r = 0) ∧ t.i = 0 ∧ t.pc = 0x200 ∧ t.sp = 0 ∧ (∀ j : Fin 16, t.stk[j] = 0) ∧ t.dt = 0 ∧ t.st = 0 ∧
      (∀ x y, t.pixel x y = false) ∧ t.status = .running ∧ t.kx = 0 ∧ t.fcode = 0 ∧ t.fpc = 0 ∧ t.fword = 0 ∧
      t.params = s.params ∧ t.env = s.env

/-- An image of more than 3584 bytes is refused, not truncated (R233). -/
def Obligations.OverlongImageIsRefused : Prop :=
  ∀ (s : State) (image : List Byte), 3584 < image.length →
    perform (.reset image) s = .refused (.imageTooLong image.length)

/-! ### Control transfer (40_flow) -/

/-- SYS (R110): `pc + 2` and nothing else under `nop`; the DecodeError entry under `fatal`. -/
def Obligations.SysIsNopOrDecodeError : Prop :=
  ∀ (nnn : Addr) (s : State),
    (s.params.sysPolicy = .nop →
      ∃ t, exec (.sys nnn) s = .next t ∧ t.pc = s.pc + 2 ∧ s.KeepsAllBut t [.pc]) ∧
    (s.params.sysPolicy = .fatal →
      ∃ t, exec (.sys nnn) s = .next t ∧ FaultEntered s t 1 (BitVec.ofNat 16 nnn.toNat))

/-- JP (R112). -/
def Obligations.JumpLoadsTheTarget : Prop :=
  ∀ (nnn : Addr) (s : State),
    ∃ t, exec (.jp nnn) s = .next t ∧ t.pc.toNat = nnn.toNat ∧ s.KeepsAllBut t [.pc]

/-- CALL (R113): at `sp` = 16 the StackOverflow entry; else `STK[sp]` takes `pc + 2`, `sp` counts up, `pc` is the
target. -/
def Obligations.CallPushesTheNextAddress : Prop :=
  ∀ (nnn : Addr) (s : State),
    (s.sp.val = 16 →
      ∃ t, exec (.call nnn) s = .next t ∧ FaultEntered s t 2 (BitVec.ofNat 16 (0x2000 + nnn.toNat))) ∧
    (s.sp.val ≠ 16 →
      ∃ t, exec (.call nnn) s = .next t ∧ t.pc.toNat = nnn.toNat ∧ t.sp.val = s.sp.val + 1 ∧
        (∀ j : Fin 16, t.stk[j] = if j.val = s.sp.val then s.pc + 2 else s.stk[j]) ∧
        s.KeepsAllBut t [.stack, .pc])

/-- RET (R111): at `sp` = 0 the StackUnderflow entry; else `sp` counts down, `pc` is the popped entry, `STK` keeps its
bits. -/
def Obligations.ReturnPopsTheStack : Prop :=
  ∀ s : State,
    (s.sp.val = 0 → ∃ t, exec .ret s = .next t ∧ FaultEntered s t 3 0x00EE#16) ∧
    (∀ j : Fin 16, s.sp.val = j.val + 1 →
      ∃ t, exec .ret s = .next t ∧ t.pc = s.stk[j] ∧ t.sp.val = j.val ∧ t.stk = s.stk ∧
        s.KeepsAllBut t [.stack, .pc])

/-- JP V0 (R114): the sum is not reduced. -/
def Obligations.JumpWithOffsetAddsRegisterZero : Prop :=
  ∀ (nnn : Addr) (s : State),
    ∃ t, exec (.jpV0 nnn) s = .next t ∧ t.pc.toNat = nnn.toNat + (s.reg 0).toNat ∧ s.KeepsAllBut t [.pc]

/-- The round trip of R113: a CALL, any work that leaves the stack as the CALL left it, then RET, resumes at the
instruction after the call with the stack's depth and live entries as before. -/
def Obligations.CallThenReturnResumesAfterTheCall : Prop :=
  ∀ (nnn : Addr) (s t u : State), s.sp.val ≠ 16 → exec (.call nnn) s = .next t → u.sp = t.sp → u.stk = t.stk →
    ∃ v, exec .ret u = .next v ∧ v.pc = s.pc + 2 ∧ v.sp = s.sp ∧
      (∀ j : Fin 16, j.val < s.sp.val → v.stk[j] = s.stk[j]) ∧ u.KeepsAllBut v [.stack, .pc]

/-! ### Skips (41_skip) -/

/-- SE and SNE with an immediate (R120, R121). -/
def Obligations.SkipsComparingAnImmediate : Prop :=
  ∀ (x : Nibble) (nn : Byte) (s : State),
    (∃ t, exec (.seImm x nn) s = .next t ∧ t.pc = (if s.reg x = nn then s.pc + 4 else s.pc + 2) ∧
      s.KeepsAllBut t [.pc]) ∧
    (∃ t, exec (.sneImm x nn) s = .next t ∧ t.pc = (if s.reg x = nn then s.pc + 2 else s.pc + 4) ∧
      s.KeepsAllBut t [.pc])

/-- SE and SNE with two registers, whatever the low nibble is (R122, R123, R91). -/
def Obligations.SkipsComparingRegisters : Prop :=
  ∀ (x y n : Nibble) (s : State),
    (∃ t, exec (.seReg x y n) s = .next t ∧ t.pc = (if s.reg x = s.reg y then s.pc + 4 else s.pc + 2) ∧
      s.KeepsAllBut t [.pc]) ∧
    (∃ t, exec (.sneReg x y n) s = .next t ∧ t.pc = (if s.reg x = s.reg y then s.pc + 2 else s.pc + 4) ∧
      s.KeepsAllBut t [.pc])

/-- SKP and SKNP (R124 to R126): the whole byte `V[X]` is the index; above 15 the KeyIndexError entry, else the key's
flag in this Step's snapshot decides. -/
def Obligations.SkipsOnAKeyOrFaultsOnItsIndex : Prop :=
  ∀ (x : Nibble) (s : State),
    (15 < (s.reg x).toNat →
      (∃ t, exec (.skp x) s = .next t ∧ FaultEntered s t 6 (BitVec.ofNat 16 (0xE09E + 256 * x.toNat))) ∧
      (∃ t, exec (.sknp x) s = .next t ∧ FaultEntered s t 6 (BitVec.ofNat 16 (0xE0A1 + 256 * x.toNat)))) ∧
    ((s.reg x).toNat ≤ 15 →
      (∃ t, exec (.skp x) s = .next t ∧
        t.pc = (if s.env.keys.getLsbD (s.reg x).toNat = true then s.pc + 4 else s.pc + 2) ∧ s.KeepsAllBut t [.pc]) ∧
      (∃ t, exec (.sknp x) s = .next t ∧
        t.pc = (if s.env.keys.getLsbD (s.reg x).toNat = true then s.pc + 2 else s.pc + 4) ∧ s.KeepsAllBut t [.pc]))

/-! ### Immediate loads and random (42_load_imm) -/

/-- 6XNN (R130). -/
def Obligations.LoadImmediateWritesTheByte : Prop :=
  ∀ (x : Nibble) (nn : Byte) (s : State),
    ∃ t, exec (.ldImm x nn) s = .next t ∧ t.reg x = nn ∧ t.pc = s.pc + 2 ∧ s.KeepsRegsBut t [x] ∧
      s.KeepsAllBut t [.gpr, .pc]

/-- 7XNN (R131): modulo 256; VF is written only as the destination. -/
def Obligations.AddImmediateWrapsWithoutFlag : Prop :=
  ∀ (x : Nibble) (nn : Byte) (s : State),
    ∃ t, exec (.addImm x nn) s = .next t ∧ (t.reg x).toNat = ((s.reg x).toNat + nn.toNat) % 256 ∧
      t.pc = s.pc + 2 ∧ s.KeepsRegsBut t [x] ∧ s.KeepsAllBut t [.gpr, .pc]

/-- ANNN (R132). -/
def Obligations.LoadAddressRegisterWritesTheAddress : Prop :=
  ∀ (nnn : Addr) (s : State),
    ∃ t, exec (.ldI nnn) s = .next t ∧ t.i.toNat = nnn.toNat ∧ t.pc = s.pc + 2 ∧ s.KeepsAllBut t [.addressReg, .pc]

/-- CXNN (R133): the Step's random byte masked by the immediate, bit by bit. -/
def Obligations.RandomIsTheDrawMaskedByTheImmediate : Prop :=
  ∀ (x : Nibble) (nn : Byte) (s : State),
    ∃ t, exec (.rnd x nn) s = .next t ∧
      (∀ k, (t.reg x).getLsbD k = (s.env.rnd.getLsbD k && nn.getLsbD k)) ∧
      t.pc = s.pc + 2 ∧ s.KeepsRegsBut t [x] ∧ s.KeepsAllBut t [.gpr, .pc]

/-! ### The ALU family (43_alu) -/

/-- 8XY0, 8XY1, 8XY2, 8XY3 (R142 to R145): the copy and the three bitwise operations, bit by bit; VF is written only as
the destination. -/
def Obligations.CopyAndLogicWriteOnlyTheDestination : Prop :=
  ∀ (x y : Nibble) (s : State),
    (∃ t, exec (.ldReg x y) s = .next t ∧ t.reg x = s.reg y ∧ t.pc = s.pc + 2 ∧ s.KeepsRegsBut t [x] ∧
      s.KeepsAllBut t [.gpr, .pc]) ∧
    (∃ t, exec (.orReg x y) s = .next t ∧
      (∀ k, (t.reg x).getLsbD k = ((s.reg x).getLsbD k || (s.reg y).getLsbD k)) ∧
      t.pc = s.pc + 2 ∧ s.KeepsRegsBut t [x] ∧ s.KeepsAllBut t [.gpr, .pc]) ∧
    (∃ t, exec (.andReg x y) s = .next t ∧
      (∀ k, (t.reg x).getLsbD k = ((s.reg x).getLsbD k && (s.reg y).getLsbD k)) ∧
      t.pc = s.pc + 2 ∧ s.KeepsRegsBut t [x] ∧ s.KeepsAllBut t [.gpr, .pc]) ∧
    (∃ t, exec (.xorReg x y) s = .next t ∧
      (∀ k, (t.reg x).getLsbD k = ((s.reg x).getLsbD k ^^ (s.reg y).getLsbD k)) ∧
      t.pc = s.pc + 2 ∧ s.KeepsRegsBut t [x] ∧ s.KeepsAllBut t [.gpr, .pc])

/-- 8XY4 (R146, R141): the sum modulo 256, VF the carry; with `X` = 15 the flag stays. -/
def Obligations.AddWritesSumThenCarry : Prop :=
  ∀ (x y : Nibble) (s : State),
    ∃ t, exec (.addReg x y) s = .next t ∧
      t.reg 15 = (if (s.reg x).toNat + (s.reg y).toNat > 255 then 1 else 0) ∧
      (x ≠ 15 → (t.reg x).toNat = ((s.reg x).toNat + (s.reg y).toNat) % 256) ∧
      t.pc = s.pc + 2 ∧ s.KeepsRegsBut t [x, 15] ∧ s.KeepsAllBut t [.gpr, .pc]

/-- 8XY5 and 8XY7 (R147, R149, R141): the difference modulo 256, VF the not-borrow; with `X` = 15 the flag stays. -/
def Obligations.SubtractsWriteDifferenceThenNotBorrow : Prop :=
  ∀ (x y : Nibble) (s : State),
    (∃ t, exec (.sub x y) s = .next t ∧
      t.reg 15 = (if (s.reg x).toNat ≥ (s.reg y).toNat then 1 else 0) ∧
      (x ≠ 15 → (t.reg x).toNat = ((s.reg x).toNat + 256 - (s.reg y).toNat) % 256) ∧
      t.pc = s.pc + 2 ∧ s.KeepsRegsBut t [x, 15] ∧ s.KeepsAllBut t [.gpr, .pc]) ∧
    (∃ t, exec (.subn x y) s = .next t ∧
      t.reg 15 = (if (s.reg y).toNat ≥ (s.reg x).toNat then 1 else 0) ∧
      (x ≠ 15 → (t.reg x).toNat = ((s.reg y).toNat + 256 - (s.reg x).toNat) % 256) ∧
      t.pc = s.pc + 2 ∧ s.KeepsRegsBut t [x, 15] ∧ s.KeepsAllBut t [.gpr, .pc])

/-- 8XY6 and 8XYE (R148, R150, R141): the operand `SHIFT_SRC` names, by one bit, VF the bit shifted out; with `X` = 15
the flag stays. -/
def Obligations.ShiftsWriteResultThenShiftedOutBit : Prop :=
  ∀ (x y : Nibble) (s : State) (b : Byte), b = (if s.params.shiftSrc = .vx then s.reg x else s.reg y) →
    (∃ t, exec (.shr x y) s = .next t ∧ (t.reg 15).toNat = b.toNat % 2 ∧
      (x ≠ 15 → (t.reg x).toNat = b.toNat / 2) ∧
      t.pc = s.pc + 2 ∧ s.KeepsRegsBut t [x, 15] ∧ s.KeepsAllBut t [.gpr, .pc]) ∧
    (∃ t, exec (.shl x y) s = .next t ∧ (t.reg 15).toNat = b.toNat / 128 ∧
      (x ≠ 15 → (t.reg x).toNat = 2 * b.toNat % 256) ∧
      t.pc = s.pc + 2 ∧ s.KeepsRegsBut t [x, 15] ∧ s.KeepsAllBut t [.gpr, .pc])

/-! ### Display (44_display) -/

/-- 00E0 (R160). -/
def Obligations.ClearTurnsEveryPixelOff : Prop :=
  ∀ s : State,
    ∃ t, exec .cls s = .next t ∧ (∀ col row, t.pixel col row = false) ∧ t.pc = s.pc + 2 ∧
      s.KeepsAllBut t [.display, .pc]

/-- DXYN (R161 to R164, R166): the AddressRangeError entry when the sprite's bytes pass 4095; else every pixel under a
1 bit of the wrapped sprite toggles and no other changes, VF is 1 when such a pixel was on and 0 else, `N` = 0
included. -/
def Obligations.DrawXorsTheWrappedSprite : Prop :=
  ∀ (x y n : Nibble) (s : State),
    (0 < n.toNat ∧ 4095 < s.i.toNat + n.toNat - 1 →
      ∃ t, exec (.drw x y n) s = .next t ∧
        FaultEntered s t 5 (BitVec.ofNat 16 (0xD000 + 256 * x.toNat + 16 * y.toNat + n.toNat))) ∧
    (¬ (0 < n.toNat ∧ 4095 < s.i.toNat + n.toNat - 1) →
      ∃ t, exec (.drw x y n) s = .next t ∧
        (∀ col row, SpriteBit s x y n col row → t.pixel col row = !s.pixel col row) ∧
        (∀ col row, ¬ SpriteBit s x y n col row → t.pixel col row = s.pixel col row) ∧
        ((∃ col row, SpriteBit s x y n col row ∧ s.pixel col row = true) → t.reg 15 = 1) ∧
        ((¬ ∃ col row, SpriteBit s x y n col row ∧ s.pixel col row = true) → t.reg 15 = 0) ∧
        t.pc = s.pc + 2 ∧ s.KeepsRegsBut t [15] ∧ s.KeepsAllBut t [.display, .gpr, .pc])

/-- Two identical draws (R165 (c)): the second restores the display, and its collision flag is 1 whenever the first
draw turned any pixel on. "Identical" asks that the first draw's write of VF has not moved the origin. -/
def Obligations.SecondIdenticalDrawRestoresTheDisplay : Prop :=
  ∀ (x y n : Nibble) (s t : State), ¬ (0 < n.toNat ∧ 4095 < s.i.toNat + n.toNat - 1) →
    exec (.drw x y n) s = .next t → t.reg x = s.reg x → t.reg y = s.reg y →
    ∃ u, exec (.drw x y n) t = .next u ∧ (∀ col row, u.pixel col row = s.pixel col row) ∧
      ((∃ col row, s.pixel col row = false ∧ t.pixel col row = true) → u.reg 15 = 1)

/-- R165's stronger sentence, "the second sets VF = 1 whenever the sprite has at least one 1 bit". Expected to FAIL: a
sprite drawn on pixels that are all on turns them off, and the second draw turns them on again without a collision (R161,
R164; log entry 5). -/
def Obligations.SecondIdenticalDrawCollidesForEverySprite : Prop :=
  ∀ (x y n : Nibble) (s t : State), ¬ (0 < n.toNat ∧ 4095 < s.i.toNat + n.toNat - 1) →
    exec (.drw x y n) s = .next t → t.reg x = s.reg x → t.reg y = s.reg y →
    (∃ col row, SpriteBit s x y n col row) →
    ∃ u, exec (.drw x y n) t = .next u ∧ u.reg 15 = 1

/-! ### Timers and the key wait (45_timer_key, 60_exceptions) -/

/-- FX07 (R170), FX15 (R171), FX18 (R172). -/
def Obligations.TimerAccessMovesAByte : Prop :=
  ∀ (x : Nibble) (s : State),
    (∃ t, exec (.ldVxDt x) s = .next t ∧ t.reg x = s.dt ∧ t.pc = s.pc + 2 ∧ s.KeepsRegsBut t [x] ∧
      s.KeepsAllBut t [.gpr, .pc]) ∧
    (∃ t, exec (.ldDtVx x) s = .next t ∧ t.dt = s.reg x ∧ t.pc = s.pc + 2 ∧ s.KeepsAllBut t [.delay, .pc]) ∧
    (∃ t, exec (.ldStVx x) s = .next t ∧ t.st = s.reg x ∧ t.pc = s.pc + 2 ∧ s.KeepsAllBut t [.sound, .pc])

/-- FX0A (R173): only starts the wait; `pc` keeps the address of this FX0A, no register changes. -/
def Obligations.KeyWaitHoldsThePc : Prop :=
  ∀ (x : Nibble) (s : State),
    ∃ t, exec (.ldVxK x) s = .next t ∧ t.status = .awaitKey ∧ t.kx = x ∧ s.KeepsAllBut t [.status, .keyLatch]

/-- `KeyEvent(k)` (R174): completes the wait, or is dropped. -/
def Obligations.KeyEventCompletesTheWaitOrIsDropped : Prop :=
  ∀ (s : State) (k : Nibble),
    (s.status = .awaitKey →
      ∃ t, perform (.keyEvent k) s = .next t ∧ (t.reg s.kx).toNat = k.toNat ∧ t.pc = s.pc + 2 ∧
        t.status = .running ∧ s.KeepsRegsBut t [s.kx] ∧ s.KeepsAllBut t [.gpr, .pc, .status]) ∧
    (s.status ≠ .awaitKey → perform (.keyEvent k) s = .next s)

/-- `Tick` (R211). -/
def Obligations.TickCountsBothTimersDown : Prop :=
  ∀ s : State,
    (s.status = .halted → perform .tick s = .next s) ∧
    (s.status ≠ .halted →
      ∃ t, perform .tick s = .next t ∧ (s.dt.toNat > 0 → t.dt.toNat = s.dt.toNat - 1) ∧ (s.dt.toNat = 0 → t.dt = 0) ∧
        (s.st.toNat > 0 → t.st.toNat = s.st.toNat - 1) ∧ (s.st.toNat = 0 → t.st = 0) ∧
        s.KeepsAllBut t [.delay, .sound])

/-- A timer at `n` is 0 after exactly `n` ticks, and stays there (R171, R211). -/
def Obligations.TimersReachZeroAfterAsManyTicks : Prop :=
  ∀ (s : State) (n : Nat), s.status ≠ .halted →
    (Nat.iterate State.tick n s).dt.toNat = s.dt.toNat - n ∧ (Nat.iterate State.tick n s).st.toNat = s.st.toNat - n ∧
      s.KeepsAllBut (Nat.iterate State.tick n s) [.delay, .sound]

/-- `sound_active` is 1 exactly while `ST` is nonzero (R12): after FX18 it says whether `V[X]` is nonzero (R172), and a
Tick from `ST` = 1 ends it (R211). -/
def Obligations.SoundIsActiveWhileItsTimerRuns : Prop :=
  ∀ s : State,
    (s.soundActive = true ↔ s.st ≠ 0) ∧
    (∀ x, ∃ t, exec (.ldStVx x) s = .next t ∧ (t.soundActive = true ↔ s.reg x ≠ 0)) ∧
    (s.status ≠ .halted → s.st = 1 → ∃ t, perform .tick s = .next t ∧ t.soundActive = false)

/-! ### Address register and memory transfer (46_index_mem) -/

/-- FX1E (R180): modulo 65536; VF is not written. -/
def Obligations.AddToAddressRegisterWraps : Prop :=
  ∀ (x : Nibble) (s : State),
    ∃ t, exec (.addIVx x) s = .next t ∧ t.i.toNat = (s.i.toNat + (s.reg x).toNat) % 65536 ∧ t.pc = s.pc + 2 ∧
      s.KeepsAllBut t [.addressReg, .pc]

/-- FX29 (R181): the glyph of the low nibble, for every `FONT_BASE`. -/
def Obligations.FontAddressPointsAtTheGlyph : Prop :=
  ∀ (x : Nibble) (s : State),
    ∃ t, exec (.ldFVx x) s = .next t ∧ t.i.toNat = s.params.fontBase.val + 5 * ((s.reg x).toNat % 16) ∧
      t.pc = s.pc + 2 ∧ s.KeepsAllBut t [.addressReg, .pc]

/-- FX33 (R182): the AddressRangeError entry, or three digits at `I`, `I + 1`, `I + 2` and no other byte changed. What
is read back is said for memories of the canonical form, which every step keeps. -/
def Obligations.DecimalDigitsAreStoredAtI : Prop :=
  ∀ (x : Nibble) (s : State),
    (4095 < s.i.toNat + 2 →
      ∃ t, exec (.ldBVx x) s = .next t ∧ FaultEntered s t 5 (BitVec.ofNat 16 (0xF033 + 256 * x.toNat))) ∧
    (s.i.toNat + 2 ≤ 4095 →
      ∃ t, exec (.ldBVx x) s = .next t ∧ t.pc = s.pc + 2 ∧ s.KeepsAllBut t [.memory, .pc] ∧
        (∀ a, a < s.i.toNat ∨ s.i.toNat + 2 < a → t.readByte a = s.readByte a) ∧
        (Memory.wf s.params s.mem = true →
          (t.readByte s.i.toNat).toNat = (s.reg x).toNat / 100 ∧
          (t.readByte (s.i.toNat + 1)).toNat = (s.reg x).toNat / 10 % 10 ∧
          (t.readByte (s.i.toNat + 2)).toNat = (s.reg x).toNat % 10))

/-- FX55 (R183): the AddressRangeError entry, or `V[0]` to `V[X]` at `I` to `I + X` and no other byte changed. -/
def Obligations.RegisterDumpStoresUpToX : Prop :=
  ∀ (x : Nibble) (s : State),
    (4095 < s.i.toNat + x.toNat →
      ∃ t, exec (.ldMemVx x) s = .next t ∧ FaultEntered s t 5 (BitVec.ofNat 16 (0xF055 + 256 * x.toNat))) ∧
    (s.i.toNat + x.toNat ≤ 4095 →
      ∃ t, exec (.ldMemVx x) s = .next t ∧ t.pc = s.pc + 2 ∧ s.KeepsAllBut t [.memory, .pc] ∧
        (∀ a, a < s.i.toNat ∨ s.i.toNat + x.toNat < a → t.readByte a = s.readByte a) ∧
        (Memory.wf s.params s.mem = true →
          ∀ r : Nibble, r.toNat ≤ x.toNat → t.readByte (s.i.toNat + r.toNat) = s.reg r))

/-- FX65 (R184): the AddressRangeError entry, or `V[0]` to `V[X]` from `I` to `I + X`, the other registers, `I` and
Memory unchanged. -/
def Obligations.RegisterLoadReadsUpToX : Prop :=
  ∀ (x : Nibble) (s : State),
    (4095 < s.i.toNat + x.toNat →
      ∃ t, exec (.ldVxMem x) s = .next t ∧ FaultEntered s t 5 (BitVec.ofNat 16 (0xF065 + 256 * x.toNat))) ∧
    (s.i.toNat + x.toNat ≤ 4095 →
      ∃ t, exec (.ldVxMem x) s = .next t ∧
        (∀ r : Nibble, r.toNat ≤ x.toNat → t.reg r = s.readByte (s.i.toNat + r.toNat)) ∧
        (∀ r : Nibble, x.toNat < r.toNat → t.reg r = s.reg r) ∧
        t.pc = s.pc + 2 ∧ s.KeepsAllBut t [.gpr, .pc])

/-- "inverse of dump" (R184): a load from where a dump stored, with Memory and `I` as the dump left them, restores the
registers up to `X`. -/
def Obligations.LoadAfterDumpRestoresTheRegisters : Prop :=
  ∀ (x : Nibble) (s t u : State), Memory.wf s.params s.mem = true → s.i.toNat + x.toNat ≤ 4095 →
    exec (.ldMemVx x) s = .next t → (∀ a, u.readByte a = t.readByte a) → u.i = s.i →
    ∃ v, exec (.ldVxMem x) u = .next v ∧ ∀ r : Nibble, r.toNat ≤ x.toNat → v.reg r = s.reg r

/-! ### Rules of the whole machine -/

/-- Every instruction answers a next state in every state: no stop, no refusal. -/
def Obligations.EveryInstructionAnswersANextState : Prop :=
  ∀ (i : Instr) (s : State), ∃ t, exec i s = .next t

/-- The fault table (R198) with the fault entry (R200, R201): an instruction that meets its fault condition does that
entry and nothing else; one that does not is safe. -/
def Obligations.InstructionsFaultExactlyByTheTable : Prop :=
  ∀ (i : Instr) (s : State), ¬ s.Failed →
    (∀ e, faultOf i s = some e → ∃ t, exec i s = .next t ∧ FaultEntered s t e.code (encode i)) ∧
    (faultOf i s = none → SafeOutcome (exec i s))

/-- The pc table (R26), for a `pc` a fetch can have; a fault leaves `pc` unchanged; a KeyEvent advances a waiting `pc`
by 2. -/
def Obligations.PcFollowsItsTable : Prop :=
  ∀ (i : Instr) (s t : State), s.pc.toNat ≤ 4094 →
    (faultOf i s = none → exec i s = .next t → t.pc.toNat = pcAfter i s) ∧
    (faultOf i s ≠ none → exec i s = .next t → t.pc = s.pc) ∧
    (∀ k, s.status = .awaitKey → (s.keyEvent k).pc.toNat = s.pc.toNat + 2)

/-- The writes of R39's table: an instruction that does not fault changes only the parts and registers of its row; of
Memory, FX33 only `MEM[I..I+2]` and FX55 only `MEM[I..I+X]`; of the stack, 00EE only `sp`, 2NNN only `STK[sp]` and
`sp`. -/
def Obligations.InstructionsWriteOnlyTheirRow : Prop :=
  ∀ (i : Instr) (s t : State), faultOf i s = none → exec i s = .next t →
    s.KeepsAllBut t (writtenParts i) ∧ s.KeepsRegsBut t (writtenRegs i) ∧
    (∀ x, i = .ldBVx x → ∀ a, a < s.i.toNat ∨ s.i.toNat + 2 < a → t.readByte a = s.readByte a) ∧
    (∀ x, i = .ldMemVx x → ∀ a, a < s.i.toNat ∨ s.i.toNat + x.toNat < a → t.readByte a = s.readByte a) ∧
    (i = .ret → t.stk = s.stk) ∧
    (∀ nnn, i = .call nnn → ∀ j : Fin 16, j.val ≠ s.sp.val → t.stk[j] = s.stk[j])

/-- The six side-effect writers of VF and their values (R23); every other instruction leaves VF alone unless its
destination registers name it. -/
def Obligations.SixInstructionsWriteTheFlag : Prop :=
  ∀ (i : Instr) (s t : State), faultOf i s = none → exec i s = .next t →
    (∀ x y, i = .addReg x y → t.reg 15 = if (s.reg x).toNat + (s.reg y).toNat > 255 then 1 else 0) ∧
    (∀ x y, i = .sub x y → t.reg 15 = if (s.reg x).toNat ≥ (s.reg y).toNat then 1 else 0) ∧
    (∀ x y, i = .shr x y →
      (t.reg 15).toNat = (if s.params.shiftSrc = .vx then s.reg x else s.reg y).toNat % 2) ∧
    (∀ x y, i = .subn x y → t.reg 15 = if (s.reg y).toNat ≥ (s.reg x).toNat then 1 else 0) ∧
    (∀ x y, i = .shl x y →
      (t.reg 15).toNat = (if s.params.shiftSrc = .vx then s.reg x else s.reg y).toNat / 128) ∧
    (∀ x y n, i = .drw x y n →
      ((∃ col row, s.pixel col row = true ∧ t.pixel col row = false) → t.reg 15 = 1) ∧
      ((¬ ∃ col row, s.pixel col row = true ∧ t.pixel col row = false) → t.reg 15 = 0)) ∧
    ((15 : Nibble) ∉ writtenRegs i → t.reg 15 = s.reg 15)

/-- Only SKP and SKNP read `keys`, only RND reads `rnd` (R37, R134): for every other instruction another snapshot or
another draw gives the same next state but for the sampled argument itself. -/
def Obligations.InputsAreReadOnlyByTheirInstructions : Prop :=
  ∀ (i : Instr) (s t : State) (keys keys' : BitVec 16) (rnd rnd' : Byte),
    exec i (s.sampleInputs keys rnd) = .next t →
    ((∀ x, i ≠ .skp x) → (∀ x, i ≠ .sknp x) → exec i (s.sampleInputs keys' rnd) = .next (t.sampleInputs keys' rnd)) ∧
    ((∀ x nn, i ≠ .rnd x nn) → exec i (s.sampleInputs keys rnd') = .next (t.sampleInputs keys rnd'))

/-- No step changes the parameters: they are fixed for the machine. R6 makes them arguments of the model; that they are
state which no event writes and which a Reset keeps is the model's choice (log entries 3 and 12). -/
def Obligations.ParametersNeverChange : Prop :=
  ∀ s t : State, step s = .next t → t.params = s.params

/-- The invariant holds at reset, for every choice of the parameters and of what the environment will present. -/
def Obligations.InvariantHoldsAtReset : Prop :=
  ∀ (params : Config.Params) (env : Env), State.Inv { State.reset with params := params, env := env }

/-- Every step keeps the invariant, from every state that meets it. -/
def Obligations.EveryStepKeepsTheInvariant : Prop :=
  ∀ s t : State, s.Inv → step s = .next t → t.Inv

/-- R41, in every reachable state: `sp` at most 16, a legal STATUS, `FCODE = 0` exactly when not HALTED, `pc` at most
0x10FE, every register in its range, and HALTED unchanged by any step whose event is no Reset. And what the read ports
of R11 show in every state: `status` the encoding of R34, the fault latches, the display's pixel at (`disp_x`,
`disp_y`). -/
def Obligations.ReachableStatesObeyTheStatedBounds : Prop :=
  (∀ s : State, Reachable s →
    s.sp.val ≤ 16 ∧ s.statusOut.toNat ≤ 2 ∧ (s.fcode = 0 ↔ s.status ≠ .halted) ∧ s.pc.toNat ≤ 0x10FE ∧
    (∀ r, (s.reg r).toNat ≤ 255) ∧ s.dt.toNat ≤ 255 ∧ s.st.toNat ≤ 255 ∧ s.i.toNat ≤ 65535 ∧
    (s.status = .halted → (∀ image, s.takeEvent.1 ≠ .reset image) → ∃ t, step s = .next t ∧ s.KeepsAllBut t [.env])) ∧
  (∀ s : State,
    (s.status = .running → s.statusOut = 0) ∧ (s.status = .awaitKey → s.statusOut = 1) ∧
    (s.status = .halted → s.statusOut = 2) ∧ s.faultOut = (s.fcode, s.fpc, s.fword) ∧
    (∀ (x : Fin 64) (y : Fin 32), s.dispQ x y = s.d[y.val][x.val]))

/-! ### The signals (00_scope) -/

/-- Events presented at the same instant (R10): Reset alone where it is presented; else exactly the presented events, in
the order Step, KeyEvent, Tick. As signals (R11): in an instant with `rst` at 0 that is no falling edge, exactly the
strobes at 1, each with what it samples; the load port is not honoured. -/
def Obligations.CoincidentEventsComeInTheStatedOrder : Prop :=
  (∀ e : Edge,
    (∀ writes, e.reset = some writes → e.events = [.reset (loadedImage writes)]) ∧
    (e.reset = none →
      (∀ ev, ev ∈ e.events ↔
        (∃ keys rnd, e.step = some (keys, rnd) ∧ ev = .step keys rnd) ∨
        (∃ k, e.keyEvt = some k ∧ ev = .keyEvent k) ∨ (e.tick = true ∧ ev = .tick)) ∧
      e.events.Pairwise fun a b => a.rank < b.rank)) ∧
  (∀ (s : State) (g : Signals), g.rst = false → s.env.loading = none →
    ∃ evs : List Event,
      s.present g = { s with env := { s.env with pending := s.env.pending ++ evs } } ∧
      (∀ ev, ev ∈ evs ↔
        (g.step = true ∧ ev = .step g.keys g.rnd) ∨ (g.keyEvt = true ∧ ev = .keyEvent g.keyId) ∨
        (g.tick = true ∧ ev = .tick)) ∧
      evs.Pairwise fun a b => a.rank < b.rank)

/-- A reset through the load port (R11, R232). First the Reset event of the image the port wrote: the last byte written
at an index stands at `0x200 + index`; an index nothing was written at reads 0 (that the last of two writes counts and
that an unwritten byte is 0 is the model's choice, log entry 6). Then the signals: `rst` at 1 for some instants, then at
0. Every instant presents a Reset alone, whatever the strobes are, with the bytes written so far; the falling edge
presents it with all of them, and `rst` is 0 after it (that held instants are Resets, and that the falling edge cancels
its strobes, is the model's choice, log entry 6). -/
def Obligations.LoadPortBytesStandFromLoadBase : Prop :=
  (∀ (s : State) (writes : List (BitVec 12 × Byte)),
    ∃ t, perform (.reset (loadedImage writes)) s = .next t ∧
      (∀ before index data after, writes = before ++ (index, data) :: after → index.toNat ≤ 3583 →
        (∀ w ∈ after, w.1 ≠ index) → t.readByte (0x200 + index.toNat) = data) ∧
      (∀ k, k ≤ 3583 → (∀ w ∈ writes, w.1.toNat ≠ k) → t.readByte (0x200 + k) = 0)) ∧
  (∀ (s : State) (hold : List Signals) (fall : Signals), s.env.loading = none → hold ≠ [] →
    (∀ g ∈ hold, g.rst = true) → fall.rst = false →
    ∃ held : List Event,
      (hold ++ [fall]).foldl State.present s =
        { s with env := { s.env with
            pending := s.env.pending ++ held ++ [.reset (loadedImage (hold.flatMap Signals.write))] } } ∧
      held.length = hold.length ∧
      (∀ k, k < hold.length → held[k]? = some (.reset (loadedImage ((hold.take (k + 1)).flatMap Signals.write)))))
end

