-- ==== Sys2Proof/Laws/State.lean ====
section
/-!
SUPPORT. One lemma per field per named update of Machine/Ops.lean and Machine/Flags.lean, so that no proof unfolds a
record update.
-/
namespace Sys2Proof.Machine.State

variable (s : State)

/-! ### writeReg -/

@[simp] theorem writeReg_mem (x : Nibble) (b : Byte) : (s.writeReg x b).mem = s.mem := rfl
@[simp] theorem writeReg_v (x : Nibble) (b : Byte) : (s.writeReg x b).v = s.v.set x.toNat b x.isLt := rfl
@[simp] theorem writeReg_i (x : Nibble) (b : Byte) : (s.writeReg x b).i = s.i := rfl
@[simp] theorem writeReg_pc (x : Nibble) (b : Byte) : (s.writeReg x b).pc = s.pc := rfl
@[simp] theorem writeReg_sp (x : Nibble) (b : Byte) : (s.writeReg x b).sp = s.sp := rfl
@[simp] theorem writeReg_stk (x : Nibble) (b : Byte) : (s.writeReg x b).stk = s.stk := rfl
@[simp] theorem writeReg_dt (x : Nibble) (b : Byte) : (s.writeReg x b).dt = s.dt := rfl
@[simp] theorem writeReg_st (x : Nibble) (b : Byte) : (s.writeReg x b).st = s.st := rfl
@[simp] theorem writeReg_d (x : Nibble) (b : Byte) : (s.writeReg x b).d = s.d := rfl
@[simp] theorem writeReg_status (x : Nibble) (b : Byte) : (s.writeReg x b).status = s.status := rfl
@[simp] theorem writeReg_kx (x : Nibble) (b : Byte) : (s.writeReg x b).kx = s.kx := rfl
@[simp] theorem writeReg_fcode (x : Nibble) (b : Byte) : (s.writeReg x b).fcode = s.fcode := rfl
@[simp] theorem writeReg_fpc (x : Nibble) (b : Byte) : (s.writeReg x b).fpc = s.fpc := rfl
@[simp] theorem writeReg_fword (x : Nibble) (b : Byte) : (s.writeReg x b).fword = s.fword := rfl
@[simp] theorem writeReg_params (x : Nibble) (b : Byte) : (s.writeReg x b).params = s.params := rfl
@[simp] theorem writeReg_env (x : Nibble) (b : Byte) : (s.writeReg x b).env = s.env := rfl

/-! ### writeRegsTo -/

@[simp] theorem writeRegsTo_mem (x : Nibble) (f : Nat → Byte) : (s.writeRegsTo x f).mem = s.mem := rfl
@[simp] theorem writeRegsTo_v (x : Nibble) (f : Nat → Byte) : (s.writeRegsTo x f).v = Vector.ofFn fun k : Fin 16 => if k.val ≤ x.toNat then f k.val else s.v[k] := rfl
@[simp] theorem writeRegsTo_i (x : Nibble) (f : Nat → Byte) : (s.writeRegsTo x f).i = s.i := rfl
@[simp] theorem writeRegsTo_pc (x : Nibble) (f : Nat → Byte) : (s.writeRegsTo x f).pc = s.pc := rfl
@[simp] theorem writeRegsTo_sp (x : Nibble) (f : Nat → Byte) : (s.writeRegsTo x f).sp = s.sp := rfl
@[simp] theorem writeRegsTo_stk (x : Nibble) (f : Nat → Byte) : (s.writeRegsTo x f).stk = s.stk := rfl
@[simp] theorem writeRegsTo_dt (x : Nibble) (f : Nat → Byte) : (s.writeRegsTo x f).dt = s.dt := rfl
@[simp] theorem writeRegsTo_st (x : Nibble) (f : Nat → Byte) : (s.writeRegsTo x f).st = s.st := rfl
@[simp] theorem writeRegsTo_d (x : Nibble) (f : Nat → Byte) : (s.writeRegsTo x f).d = s.d := rfl
@[simp] theorem writeRegsTo_status (x : Nibble) (f : Nat → Byte) : (s.writeRegsTo x f).status = s.status := rfl
@[simp] theorem writeRegsTo_kx (x : Nibble) (f : Nat → Byte) : (s.writeRegsTo x f).kx = s.kx := rfl
@[simp] theorem writeRegsTo_fcode (x : Nibble) (f : Nat → Byte) : (s.writeRegsTo x f).fcode = s.fcode := rfl
@[simp] theorem writeRegsTo_fpc (x : Nibble) (f : Nat → Byte) : (s.writeRegsTo x f).fpc = s.fpc := rfl
@[simp] theorem writeRegsTo_fword (x : Nibble) (f : Nat → Byte) : (s.writeRegsTo x f).fword = s.fword := rfl
@[simp] theorem writeRegsTo_params (x : Nibble) (f : Nat → Byte) : (s.writeRegsTo x f).params = s.params := rfl
@[simp] theorem writeRegsTo_env (x : Nibble) (f : Nat → Byte) : (s.writeRegsTo x f).env = s.env := rfl

/-! ### setI -/

@[simp] theorem setI_mem (w : Word) : (s.setI w).mem = s.mem := rfl
@[simp] theorem setI_v (w : Word) : (s.setI w).v = s.v := rfl
@[simp] theorem setI_i (w : Word) : (s.setI w).i = w := rfl
@[simp] theorem setI_pc (w : Word) : (s.setI w).pc = s.pc := rfl
@[simp] theorem setI_sp (w : Word) : (s.setI w).sp = s.sp := rfl
@[simp] theorem setI_stk (w : Word) : (s.setI w).stk = s.stk := rfl
@[simp] theorem setI_dt (w : Word) : (s.setI w).dt = s.dt := rfl
@[simp] theorem setI_st (w : Word) : (s.setI w).st = s.st := rfl
@[simp] theorem setI_d (w : Word) : (s.setI w).d = s.d := rfl
@[simp] theorem setI_status (w : Word) : (s.setI w).status = s.status := rfl
@[simp] theorem setI_kx (w : Word) : (s.setI w).kx = s.kx := rfl
@[simp] theorem setI_fcode (w : Word) : (s.setI w).fcode = s.fcode := rfl
@[simp] theorem setI_fpc (w : Word) : (s.setI w).fpc = s.fpc := rfl
@[simp] theorem setI_fword (w : Word) : (s.setI w).fword = s.fword := rfl
@[simp] theorem setI_params (w : Word) : (s.setI w).params = s.params := rfl
@[simp] theorem setI_env (w : Word) : (s.setI w).env = s.env := rfl

/-! ### setPc -/

@[simp] theorem setPc_mem (w : Word) : (s.setPc w).mem = s.mem := rfl
@[simp] theorem setPc_v (w : Word) : (s.setPc w).v = s.v := rfl
@[simp] theorem setPc_i (w : Word) : (s.setPc w).i = s.i := rfl
@[simp] theorem setPc_pc (w : Word) : (s.setPc w).pc = w := rfl
@[simp] theorem setPc_sp (w : Word) : (s.setPc w).sp = s.sp := rfl
@[simp] theorem setPc_stk (w : Word) : (s.setPc w).stk = s.stk := rfl
@[simp] theorem setPc_dt (w : Word) : (s.setPc w).dt = s.dt := rfl
@[simp] theorem setPc_st (w : Word) : (s.setPc w).st = s.st := rfl
@[simp] theorem setPc_d (w : Word) : (s.setPc w).d = s.d := rfl
@[simp] theorem setPc_status (w : Word) : (s.setPc w).status = s.status := rfl
@[simp] theorem setPc_kx (w : Word) : (s.setPc w).kx = s.kx := rfl
@[simp] theorem setPc_fcode (w : Word) : (s.setPc w).fcode = s.fcode := rfl
@[simp] theorem setPc_fpc (w : Word) : (s.setPc w).fpc = s.fpc := rfl
@[simp] theorem setPc_fword (w : Word) : (s.setPc w).fword = s.fword := rfl
@[simp] theorem setPc_params (w : Word) : (s.setPc w).params = s.params := rfl
@[simp] theorem setPc_env (w : Word) : (s.setPc w).env = s.env := rfl

/-! ### setDt -/

@[simp] theorem setDt_mem (b : Byte) : (s.setDt b).mem = s.mem := rfl
@[simp] theorem setDt_v (b : Byte) : (s.setDt b).v = s.v := rfl
@[simp] theorem setDt_i (b : Byte) : (s.setDt b).i = s.i := rfl
@[simp] theorem setDt_pc (b : Byte) : (s.setDt b).pc = s.pc := rfl
@[simp] theorem setDt_sp (b : Byte) : (s.setDt b).sp = s.sp := rfl
@[simp] theorem setDt_stk (b : Byte) : (s.setDt b).stk = s.stk := rfl
@[simp] theorem setDt_dt (b : Byte) : (s.setDt b).dt = b := rfl
@[simp] theorem setDt_st (b : Byte) : (s.setDt b).st = s.st := rfl
@[simp] theorem setDt_d (b : Byte) : (s.setDt b).d = s.d := rfl
@[simp] theorem setDt_status (b : Byte) : (s.setDt b).status = s.status := rfl
@[simp] theorem setDt_kx (b : Byte) : (s.setDt b).kx = s.kx := rfl
@[simp] theorem setDt_fcode (b : Byte) : (s.setDt b).fcode = s.fcode := rfl
@[simp] theorem setDt_fpc (b : Byte) : (s.setDt b).fpc = s.fpc := rfl
@[simp] theorem setDt_fword (b : Byte) : (s.setDt b).fword = s.fword := rfl
@[simp] theorem setDt_params (b : Byte) : (s.setDt b).params = s.params := rfl
@[simp] theorem setDt_env (b : Byte) : (s.setDt b).env = s.env := rfl

/-! ### setSt -/

@[simp] theorem setSt_mem (b : Byte) : (s.setSt b).mem = s.mem := rfl
@[simp] theorem setSt_v (b : Byte) : (s.setSt b).v = s.v := rfl
@[simp] theorem setSt_i (b : Byte) : (s.setSt b).i = s.i := rfl
@[simp] theorem setSt_pc (b : Byte) : (s.setSt b).pc = s.pc := rfl
@[simp] theorem setSt_sp (b : Byte) : (s.setSt b).sp = s.sp := rfl
@[simp] theorem setSt_stk (b : Byte) : (s.setSt b).stk = s.stk := rfl
@[simp] theorem setSt_dt (b : Byte) : (s.setSt b).dt = s.dt := rfl
@[simp] theorem setSt_st (b : Byte) : (s.setSt b).st = b := rfl
@[simp] theorem setSt_d (b : Byte) : (s.setSt b).d = s.d := rfl
@[simp] theorem setSt_status (b : Byte) : (s.setSt b).status = s.status := rfl
@[simp] theorem setSt_kx (b : Byte) : (s.setSt b).kx = s.kx := rfl
@[simp] theorem setSt_fcode (b : Byte) : (s.setSt b).fcode = s.fcode := rfl
@[simp] theorem setSt_fpc (b : Byte) : (s.setSt b).fpc = s.fpc := rfl
@[simp] theorem setSt_fword (b : Byte) : (s.setSt b).fword = s.fword := rfl
@[simp] theorem setSt_params (b : Byte) : (s.setSt b).params = s.params := rfl
@[simp] theorem setSt_env (b : Byte) : (s.setSt b).env = s.env := rfl

/-! ### advance -/

@[simp] theorem advance_mem : (s.advance).mem = s.mem := rfl
@[simp] theorem advance_v : (s.advance).v = s.v := rfl
@[simp] theorem advance_i : (s.advance).i = s.i := rfl
@[simp] theorem advance_pc : (s.advance).pc = s.pc + 2 := rfl
@[simp] theorem advance_sp : (s.advance).sp = s.sp := rfl
@[simp] theorem advance_stk : (s.advance).stk = s.stk := rfl
@[simp] theorem advance_dt : (s.advance).dt = s.dt := rfl
@[simp] theorem advance_st : (s.advance).st = s.st := rfl
@[simp] theorem advance_d : (s.advance).d = s.d := rfl
@[simp] theorem advance_status : (s.advance).status = s.status := rfl
@[simp] theorem advance_kx : (s.advance).kx = s.kx := rfl
@[simp] theorem advance_fcode : (s.advance).fcode = s.fcode := rfl
@[simp] theorem advance_fpc : (s.advance).fpc = s.fpc := rfl
@[simp] theorem advance_fword : (s.advance).fword = s.fword := rfl
@[simp] theorem advance_params : (s.advance).params = s.params := rfl
@[simp] theorem advance_env : (s.advance).env = s.env := rfl

/-! ### skipIf -/

@[simp] theorem skipIf_mem (c : Bool) : (s.skipIf c).mem = s.mem := rfl
@[simp] theorem skipIf_v (c : Bool) : (s.skipIf c).v = s.v := rfl
@[simp] theorem skipIf_i (c : Bool) : (s.skipIf c).i = s.i := rfl
@[simp] theorem skipIf_pc (c : Bool) : (s.skipIf c).pc = if c then s.pc + 4 else s.pc + 2 := rfl
@[simp] theorem skipIf_sp (c : Bool) : (s.skipIf c).sp = s.sp := rfl
@[simp] theorem skipIf_stk (c : Bool) : (s.skipIf c).stk = s.stk := rfl
@[simp] theorem skipIf_dt (c : Bool) : (s.skipIf c).dt = s.dt := rfl
@[simp] theorem skipIf_st (c : Bool) : (s.skipIf c).st = s.st := rfl
@[simp] theorem skipIf_d (c : Bool) : (s.skipIf c).d = s.d := rfl
@[simp] theorem skipIf_status (c : Bool) : (s.skipIf c).status = s.status := rfl
@[simp] theorem skipIf_kx (c : Bool) : (s.skipIf c).kx = s.kx := rfl
@[simp] theorem skipIf_fcode (c : Bool) : (s.skipIf c).fcode = s.fcode := rfl
@[simp] theorem skipIf_fpc (c : Bool) : (s.skipIf c).fpc = s.fpc := rfl
@[simp] theorem skipIf_fword (c : Bool) : (s.skipIf c).fword = s.fword := rfl
@[simp] theorem skipIf_params (c : Bool) : (s.skipIf c).params = s.params := rfl
@[simp] theorem skipIf_env (c : Bool) : (s.skipIf c).env = s.env := rfl

/-! ### pop -/

@[simp] theorem pop_mem : (s.pop).mem = s.mem := rfl
@[simp] theorem pop_v : (s.pop).v = s.v := rfl
@[simp] theorem pop_i : (s.pop).i = s.i := rfl
@[simp] theorem pop_pc : (s.pop).pc = s.pc := rfl
@[simp] theorem pop_stk : (s.pop).stk = s.stk := rfl
@[simp] theorem pop_dt : (s.pop).dt = s.dt := rfl
@[simp] theorem pop_st : (s.pop).st = s.st := rfl
@[simp] theorem pop_d : (s.pop).d = s.d := rfl
@[simp] theorem pop_status : (s.pop).status = s.status := rfl
@[simp] theorem pop_kx : (s.pop).kx = s.kx := rfl
@[simp] theorem pop_fcode : (s.pop).fcode = s.fcode := rfl
@[simp] theorem pop_fpc : (s.pop).fpc = s.fpc := rfl
@[simp] theorem pop_fword : (s.pop).fword = s.fword := rfl
@[simp] theorem pop_params : (s.pop).params = s.params := rfl
@[simp] theorem pop_env : (s.pop).env = s.env := rfl

/-! ### setDisplay -/

@[simp] theorem setDisplay_mem (d : Display) : (s.setDisplay d).mem = s.mem := rfl
@[simp] theorem setDisplay_v (d : Display) : (s.setDisplay d).v = s.v := rfl
@[simp] theorem setDisplay_i (d : Display) : (s.setDisplay d).i = s.i := rfl
@[simp] theorem setDisplay_pc (d : Display) : (s.setDisplay d).pc = s.pc := rfl
@[simp] theorem setDisplay_sp (d : Display) : (s.setDisplay d).sp = s.sp := rfl
@[simp] theorem setDisplay_stk (d : Display) : (s.setDisplay d).stk = s.stk := rfl
@[simp] theorem setDisplay_dt (d : Display) : (s.setDisplay d).dt = s.dt := rfl
@[simp] theorem setDisplay_st (d : Display) : (s.setDisplay d).st = s.st := rfl
@[simp] theorem setDisplay_d (d : Display) : (s.setDisplay d).d = d := rfl
@[simp] theorem setDisplay_status (d : Display) : (s.setDisplay d).status = s.status := rfl
@[simp] theorem setDisplay_kx (d : Display) : (s.setDisplay d).kx = s.kx := rfl
@[simp] theorem setDisplay_fcode (d : Display) : (s.setDisplay d).fcode = s.fcode := rfl
@[simp] theorem setDisplay_fpc (d : Display) : (s.setDisplay d).fpc = s.fpc := rfl
@[simp] theorem setDisplay_fword (d : Display) : (s.setDisplay d).fword = s.fword := rfl
@[simp] theorem setDisplay_params (d : Display) : (s.setDisplay d).params = s.params := rfl
@[simp] theorem setDisplay_env (d : Display) : (s.setDisplay d).env = s.env := rfl

/-! ### beginWait -/

@[simp] theorem beginWait_mem (x : Nibble) : (s.beginWait x).mem = s.mem := rfl
@[simp] theorem beginWait_v (x : Nibble) : (s.beginWait x).v = s.v := rfl
@[simp] theorem beginWait_i (x : Nibble) : (s.beginWait x).i = s.i := rfl
@[simp] theorem beginWait_pc (x : Nibble) : (s.beginWait x).pc = s.pc := rfl
@[simp] theorem beginWait_sp (x : Nibble) : (s.beginWait x).sp = s.sp := rfl
@[simp] theorem beginWait_stk (x : Nibble) : (s.beginWait x).stk = s.stk := rfl
@[simp] theorem beginWait_dt (x : Nibble) : (s.beginWait x).dt = s.dt := rfl
@[simp] theorem beginWait_st (x : Nibble) : (s.beginWait x).st = s.st := rfl
@[simp] theorem beginWait_d (x : Nibble) : (s.beginWait x).d = s.d := rfl
@[simp] theorem beginWait_status (x : Nibble) : (s.beginWait x).status = .awaitKey := rfl
@[simp] theorem beginWait_kx (x : Nibble) : (s.beginWait x).kx = x := rfl
@[simp] theorem beginWait_fcode (x : Nibble) : (s.beginWait x).fcode = s.fcode := rfl
@[simp] theorem beginWait_fpc (x : Nibble) : (s.beginWait x).fpc = s.fpc := rfl
@[simp] theorem beginWait_fword (x : Nibble) : (s.beginWait x).fword = s.fword := rfl
@[simp] theorem beginWait_params (x : Nibble) : (s.beginWait x).params = s.params := rfl
@[simp] theorem beginWait_env (x : Nibble) : (s.beginWait x).env = s.env := rfl

/-! ### resume -/

@[simp] theorem resume_mem : (s.resume).mem = s.mem := rfl
@[simp] theorem resume_v : (s.resume).v = s.v := rfl
@[simp] theorem resume_i : (s.resume).i = s.i := rfl
@[simp] theorem resume_pc : (s.resume).pc = s.pc := rfl
@[simp] theorem resume_sp : (s.resume).sp = s.sp := rfl
@[simp] theorem resume_stk : (s.resume).stk = s.stk := rfl
@[simp] theorem resume_dt : (s.resume).dt = s.dt := rfl
@[simp] theorem resume_st : (s.resume).st = s.st := rfl
@[simp] theorem resume_d : (s.resume).d = s.d := rfl
@[simp] theorem resume_status : (s.resume).status = .running := rfl
@[simp] theorem resume_kx : (s.resume).kx = s.kx := rfl
@[simp] theorem resume_fcode : (s.resume).fcode = s.fcode := rfl
@[simp] theorem resume_fpc : (s.resume).fpc = s.fpc := rfl
@[simp] theorem resume_fword : (s.resume).fword = s.fword := rfl
@[simp] theorem resume_params : (s.resume).params = s.params := rfl
@[simp] theorem resume_env : (s.resume).env = s.env := rfl

/-! ### raise -/

@[simp] theorem raise_mem (e : Fault) (w : Word) : (s.raise e w).mem = s.mem := rfl
@[simp] theorem raise_v (e : Fault) (w : Word) : (s.raise e w).v = s.v := rfl
@[simp] theorem raise_i (e : Fault) (w : Word) : (s.raise e w).i = s.i := rfl
@[simp] theorem raise_pc (e : Fault) (w : Word) : (s.raise e w).pc = s.pc := rfl
@[simp] theorem raise_sp (e : Fault) (w : Word) : (s.raise e w).sp = s.sp := rfl
@[simp] theorem raise_stk (e : Fault) (w : Word) : (s.raise e w).stk = s.stk := rfl
@[simp] theorem raise_dt (e : Fault) (w : Word) : (s.raise e w).dt = s.dt := rfl
@[simp] theorem raise_st (e : Fault) (w : Word) : (s.raise e w).st = s.st := rfl
@[simp] theorem raise_d (e : Fault) (w : Word) : (s.raise e w).d = s.d := rfl
@[simp] theorem raise_status (e : Fault) (w : Word) : (s.raise e w).status = .halted := rfl
@[simp] theorem raise_kx (e : Fault) (w : Word) : (s.raise e w).kx = s.kx := rfl
@[simp] theorem raise_fcode (e : Fault) (w : Word) : (s.raise e w).fcode = e.code := rfl
@[simp] theorem raise_fpc (e : Fault) (w : Word) : (s.raise e w).fpc = s.pc := rfl
@[simp] theorem raise_fword (e : Fault) (w : Word) : (s.raise e w).fword = w := rfl
@[simp] theorem raise_params (e : Fault) (w : Word) : (s.raise e w).params = s.params := rfl
@[simp] theorem raise_env (e : Fault) (w : Word) : (s.raise e w).env = s.env := rfl

/-! ### storeBytes -/

@[simp] theorem storeBytes_mem (a : Nat) (bytes : List Byte) : (s.storeBytes a bytes).mem = Memory.writeBytes s.params s.mem a bytes := rfl
@[simp] theorem storeBytes_v (a : Nat) (bytes : List Byte) : (s.storeBytes a bytes).v = s.v := rfl
@[simp] theorem storeBytes_i (a : Nat) (bytes : List Byte) : (s.storeBytes a bytes).i = s.i := rfl
@[simp] theorem storeBytes_pc (a : Nat) (bytes : List Byte) : (s.storeBytes a bytes).pc = s.pc := rfl
@[simp] theorem storeBytes_sp (a : Nat) (bytes : List Byte) : (s.storeBytes a bytes).sp = s.sp := rfl
@[simp] theorem storeBytes_stk (a : Nat) (bytes : List Byte) : (s.storeBytes a bytes).stk = s.stk := rfl
@[simp] theorem storeBytes_dt (a : Nat) (bytes : List Byte) : (s.storeBytes a bytes).dt = s.dt := rfl
@[simp] theorem storeBytes_st (a : Nat) (bytes : List Byte) : (s.storeBytes a bytes).st = s.st := rfl
@[simp] theorem storeBytes_d (a : Nat) (bytes : List Byte) : (s.storeBytes a bytes).d = s.d := rfl
@[simp] theorem storeBytes_status (a : Nat) (bytes : List Byte) : (s.storeBytes a bytes).status = s.status := rfl
@[simp] theorem storeBytes_kx (a : Nat) (bytes : List Byte) : (s.storeBytes a bytes).kx = s.kx := rfl
@[simp] theorem storeBytes_fcode (a : Nat) (bytes : List Byte) : (s.storeBytes a bytes).fcode = s.fcode := rfl
@[simp] theorem storeBytes_fpc (a : Nat) (bytes : List Byte) : (s.storeBytes a bytes).fpc = s.fpc := rfl
@[simp] theorem storeBytes_fword (a : Nat) (bytes : List Byte) : (s.storeBytes a bytes).fword = s.fword := rfl
@[simp] theorem storeBytes_params (a : Nat) (bytes : List Byte) : (s.storeBytes a bytes).params = s.params := rfl
@[simp] theorem storeBytes_env (a : Nat) (bytes : List Byte) : (s.storeBytes a bytes).env = s.env := rfl

/-! ### sampleInputs -/

@[simp] theorem sampleInputs_mem (keys : BitVec 16) (rnd : Byte) : (s.sampleInputs keys rnd).mem = s.mem := rfl
@[simp] theorem sampleInputs_v (keys : BitVec 16) (rnd : Byte) : (s.sampleInputs keys rnd).v = s.v := rfl
@[simp] theorem sampleInputs_i (keys : BitVec 16) (rnd : Byte) : (s.sampleInputs keys rnd).i = s.i := rfl
@[simp] theorem sampleInputs_pc (keys : BitVec 16) (rnd : Byte) : (s.sampleInputs keys rnd).pc = s.pc := rfl
@[simp] theorem sampleInputs_sp (keys : BitVec 16) (rnd : Byte) : (s.sampleInputs keys rnd).sp = s.sp := rfl
@[simp] theorem sampleInputs_stk (keys : BitVec 16) (rnd : Byte) : (s.sampleInputs keys rnd).stk = s.stk := rfl
@[simp] theorem sampleInputs_dt (keys : BitVec 16) (rnd : Byte) : (s.sampleInputs keys rnd).dt = s.dt := rfl
@[simp] theorem sampleInputs_st (keys : BitVec 16) (rnd : Byte) : (s.sampleInputs keys rnd).st = s.st := rfl
@[simp] theorem sampleInputs_d (keys : BitVec 16) (rnd : Byte) : (s.sampleInputs keys rnd).d = s.d := rfl
@[simp] theorem sampleInputs_status (keys : BitVec 16) (rnd : Byte) : (s.sampleInputs keys rnd).status = s.status := rfl
@[simp] theorem sampleInputs_kx (keys : BitVec 16) (rnd : Byte) : (s.sampleInputs keys rnd).kx = s.kx := rfl
@[simp] theorem sampleInputs_fcode (keys : BitVec 16) (rnd : Byte) : (s.sampleInputs keys rnd).fcode = s.fcode := rfl
@[simp] theorem sampleInputs_fpc (keys : BitVec 16) (rnd : Byte) : (s.sampleInputs keys rnd).fpc = s.fpc := rfl
@[simp] theorem sampleInputs_fword (keys : BitVec 16) (rnd : Byte) : (s.sampleInputs keys rnd).fword = s.fword := rfl
@[simp] theorem sampleInputs_params (keys : BitVec 16) (rnd : Byte) : (s.sampleInputs keys rnd).params = s.params := rfl
@[simp] theorem sampleInputs_env (keys : BitVec 16) (rnd : Byte) : (s.sampleInputs keys rnd).env = { s.env with keys := keys, rnd := rnd } := rfl

@[simp] theorem pop_sp_val : (s.pop).sp.val = s.sp.val - 1 := rfl

/-! ### push -/

@[simp] theorem push_mem (w : Word) : (s.push w).mem = s.mem := rfl
@[simp] theorem push_v (w : Word) : (s.push w).v = s.v := rfl
@[simp] theorem push_i (w : Word) : (s.push w).i = s.i := rfl
@[simp] theorem push_pc (w : Word) : (s.push w).pc = s.pc := rfl
@[simp] theorem push_dt (w : Word) : (s.push w).dt = s.dt := rfl
@[simp] theorem push_st (w : Word) : (s.push w).st = s.st := rfl
@[simp] theorem push_d (w : Word) : (s.push w).d = s.d := rfl
@[simp] theorem push_status (w : Word) : (s.push w).status = s.status := rfl
@[simp] theorem push_kx (w : Word) : (s.push w).kx = s.kx := rfl
@[simp] theorem push_fcode (w : Word) : (s.push w).fcode = s.fcode := rfl
@[simp] theorem push_fpc (w : Word) : (s.push w).fpc = s.fpc := rfl
@[simp] theorem push_fword (w : Word) : (s.push w).fword = s.fword := rfl
@[simp] theorem push_params (w : Word) : (s.push w).params = s.params := rfl
@[simp] theorem push_env (w : Word) : (s.push w).env = s.env := rfl

@[simp] theorem push_stk (w : Word) : (s.push w).stk = s.stk.setIfInBounds s.sp.val w := rfl

theorem push_sp_val (w : Word) (h : s.sp.val < 16) : (s.push w).sp.val = s.sp.val + 1 :=
  Nat.min_eq_left h

/-! ### writeResultFlag -/

@[simp] theorem writeResultFlag_mem (x : Nibble) (b : Byte) (c : Bool) : (s.writeResultFlag x b c).mem = s.mem := rfl
@[simp] theorem writeResultFlag_i (x : Nibble) (b : Byte) (c : Bool) : (s.writeResultFlag x b c).i = s.i := rfl
@[simp] theorem writeResultFlag_pc (x : Nibble) (b : Byte) (c : Bool) : (s.writeResultFlag x b c).pc = s.pc := rfl
@[simp] theorem writeResultFlag_sp (x : Nibble) (b : Byte) (c : Bool) : (s.writeResultFlag x b c).sp = s.sp := rfl
@[simp] theorem writeResultFlag_stk (x : Nibble) (b : Byte) (c : Bool) : (s.writeResultFlag x b c).stk = s.stk := rfl
@[simp] theorem writeResultFlag_dt (x : Nibble) (b : Byte) (c : Bool) : (s.writeResultFlag x b c).dt = s.dt := rfl
@[simp] theorem writeResultFlag_st (x : Nibble) (b : Byte) (c : Bool) : (s.writeResultFlag x b c).st = s.st := rfl
@[simp] theorem writeResultFlag_d (x : Nibble) (b : Byte) (c : Bool) : (s.writeResultFlag x b c).d = s.d := rfl
@[simp] theorem writeResultFlag_status (x : Nibble) (b : Byte) (c : Bool) : (s.writeResultFlag x b c).status = s.status := rfl
@[simp] theorem writeResultFlag_kx (x : Nibble) (b : Byte) (c : Bool) : (s.writeResultFlag x b c).kx = s.kx := rfl
@[simp] theorem writeResultFlag_fcode (x : Nibble) (b : Byte) (c : Bool) : (s.writeResultFlag x b c).fcode = s.fcode := rfl
@[simp] theorem writeResultFlag_fpc (x : Nibble) (b : Byte) (c : Bool) : (s.writeResultFlag x b c).fpc = s.fpc := rfl
@[simp] theorem writeResultFlag_fword (x : Nibble) (b : Byte) (c : Bool) : (s.writeResultFlag x b c).fword = s.fword := rfl
@[simp] theorem writeResultFlag_params (x : Nibble) (b : Byte) (c : Bool) : (s.writeResultFlag x b c).params = s.params := rfl
@[simp] theorem writeResultFlag_env (x : Nibble) (b : Byte) (c : Bool) : (s.writeResultFlag x b c).env = s.env := rfl

/-! ### tick, keyEvent, resetWith -/

@[simp] theorem tick_mem : (s.tick).mem = s.mem := by unfold tick; split <;> rfl
@[simp] theorem tick_v : (s.tick).v = s.v := by unfold tick; split <;> rfl
@[simp] theorem tick_i : (s.tick).i = s.i := by unfold tick; split <;> rfl
@[simp] theorem tick_pc : (s.tick).pc = s.pc := by unfold tick; split <;> rfl
@[simp] theorem tick_sp : (s.tick).sp = s.sp := by unfold tick; split <;> rfl
@[simp] theorem tick_stk : (s.tick).stk = s.stk := by unfold tick; split <;> rfl
@[simp] theorem tick_d : (s.tick).d = s.d := by unfold tick; split <;> rfl
@[simp] theorem tick_status : (s.tick).status = s.status := by unfold tick; split <;> rfl
@[simp] theorem tick_kx : (s.tick).kx = s.kx := by unfold tick; split <;> rfl
@[simp] theorem tick_fcode : (s.tick).fcode = s.fcode := by unfold tick; split <;> rfl
@[simp] theorem tick_fpc : (s.tick).fpc = s.fpc := by unfold tick; split <;> rfl
@[simp] theorem tick_fword : (s.tick).fword = s.fword := by unfold tick; split <;> rfl
@[simp] theorem tick_params : (s.tick).params = s.params := by unfold tick; split <;> rfl
@[simp] theorem tick_env : (s.tick).env = s.env := by unfold tick; split <;> rfl

@[simp] theorem keyEvent_mem (k : Nibble) : (s.keyEvent k).mem = s.mem := by unfold keyEvent; split <;> rfl
@[simp] theorem keyEvent_i (k : Nibble) : (s.keyEvent k).i = s.i := by unfold keyEvent; split <;> rfl
@[simp] theorem keyEvent_sp (k : Nibble) : (s.keyEvent k).sp = s.sp := by unfold keyEvent; split <;> rfl
@[simp] theorem keyEvent_stk (k : Nibble) : (s.keyEvent k).stk = s.stk := by unfold keyEvent; split <;> rfl
@[simp] theorem keyEvent_dt (k : Nibble) : (s.keyEvent k).dt = s.dt := by unfold keyEvent; split <;> rfl
@[simp] theorem keyEvent_st (k : Nibble) : (s.keyEvent k).st = s.st := by unfold keyEvent; split <;> rfl
@[simp] theorem keyEvent_d (k : Nibble) : (s.keyEvent k).d = s.d := by unfold keyEvent; split <;> rfl
@[simp] theorem keyEvent_kx (k : Nibble) : (s.keyEvent k).kx = s.kx := by unfold keyEvent; split <;> rfl
@[simp] theorem keyEvent_fcode (k : Nibble) : (s.keyEvent k).fcode = s.fcode := by unfold keyEvent; split <;> rfl
@[simp] theorem keyEvent_fpc (k : Nibble) : (s.keyEvent k).fpc = s.fpc := by unfold keyEvent; split <;> rfl
@[simp] theorem keyEvent_fword (k : Nibble) : (s.keyEvent k).fword = s.fword := by unfold keyEvent; split <;> rfl
@[simp] theorem keyEvent_params (k : Nibble) : (s.keyEvent k).params = s.params := by unfold keyEvent; split <;> rfl
@[simp] theorem keyEvent_env (k : Nibble) : (s.keyEvent k).env = s.env := by unfold keyEvent; split <;> rfl

@[simp] theorem resetWith_mem (image : List Byte) : (s.resetWith image).mem = Memory.writeBytes s.params [] 0x200 image := rfl
@[simp] theorem resetWith_v (image : List Byte) : (s.resetWith image).v = State.reset.v := rfl
@[simp] theorem resetWith_i (image : List Byte) : (s.resetWith image).i = State.reset.i := rfl
@[simp] theorem resetWith_pc (image : List Byte) : (s.resetWith image).pc = State.reset.pc := rfl
@[simp] theorem resetWith_sp (image : List Byte) : (s.resetWith image).sp = State.reset.sp := rfl
@[simp] theorem resetWith_stk (image : List Byte) : (s.resetWith image).stk = State.reset.stk := rfl
@[simp] theorem resetWith_dt (image : List Byte) : (s.resetWith image).dt = State.reset.dt := rfl
@[simp] theorem resetWith_st (image : List Byte) : (s.resetWith image).st = State.reset.st := rfl
@[simp] theorem resetWith_d (image : List Byte) : (s.resetWith image).d = State.reset.d := rfl
@[simp] theorem resetWith_status (image : List Byte) : (s.resetWith image).status = State.reset.status := rfl
@[simp] theorem resetWith_kx (image : List Byte) : (s.resetWith image).kx = State.reset.kx := rfl
@[simp] theorem resetWith_fcode (image : List Byte) : (s.resetWith image).fcode = State.reset.fcode := rfl
@[simp] theorem resetWith_fpc (image : List Byte) : (s.resetWith image).fpc = State.reset.fpc := rfl
@[simp] theorem resetWith_fword (image : List Byte) : (s.resetWith image).fword = State.reset.fword := rfl
@[simp] theorem resetWith_params (image : List Byte) : (s.resetWith image).params = s.params := rfl
@[simp] theorem resetWith_env (image : List Byte) : (s.resetWith image).env = s.env := rfl

end Sys2Proof.Machine.State
end

