-- ==== Sys2Proof/Laws/Decode.lean ====
section
/-!
SUPPORT. Fields and formats are inverse to each other (30_encoding R81, R82): what each field of a built word is, and
that a word is built from its own fields.
-/
namespace Sys2Proof

theorem fields_formatA (f : Nibble) (nnn : Addr) :
    fieldF (formatA f nnn) = f ∧ fieldNNN (formatA f nnn) = nnn := by
  unfold fieldF fieldNNN formatA
  refine ⟨?_, ?_⟩ <;>
    (ext k hk
     simp only [BitVec.getElem_extractLsb', BitVec.getLsbD_append]
     interval_cases k <;> simp [BitVec.getLsbD_eq_getElem])

theorem fields_formatXI (f x : Nibble) (nn : Byte) :
    fieldF (formatXI f x nn) = f ∧ fieldX (formatXI f x nn) = x ∧ fieldNN (formatXI f x nn) = nn := by
  unfold fieldF fieldX fieldNN formatXI
  refine ⟨?_, ?_, ?_⟩ <;>
    (ext k hk
     simp only [BitVec.getElem_extractLsb', BitVec.getLsbD_append]
     interval_cases k <;> simp [BitVec.getLsbD_eq_getElem])

theorem fields_formatXYN (f x y n : Nibble) :
    fieldF (formatXYN f x y n) = f ∧ fieldX (formatXYN f x y n) = x ∧ fieldY (formatXYN f x y n) = y ∧
      fieldN (formatXYN f x y n) = n := by
  unfold fieldF fieldX fieldY fieldN formatXYN
  refine ⟨?_, ?_, ?_, ?_⟩ <;>
    (ext k hk
     simp only [BitVec.getElem_extractLsb', BitVec.getLsbD_append]
     interval_cases k <;> simp [BitVec.getLsbD_eq_getElem])

theorem formatA_fields (w : Word) : formatA (fieldF w) (fieldNNN w) = w := by
  unfold formatA fieldF fieldNNN
  apply BitVec.eq_of_getLsbD_eq
  intro k hk
  simp only [BitVec.getLsbD_append, BitVec.getLsbD_extractLsb']
  interval_cases k <;> simp

theorem formatXI_fields (w : Word) : formatXI (fieldF w) (fieldX w) (fieldNN w) = w := by
  unfold formatXI fieldF fieldX fieldNN
  apply BitVec.eq_of_getLsbD_eq
  intro k hk
  simp only [BitVec.getLsbD_append, BitVec.getLsbD_extractLsb']
  interval_cases k <;> simp

theorem formatXYN_fields (w : Word) : formatXYN (fieldF w) (fieldX w) (fieldY w) (fieldN w) = w := by
  unfold formatXYN fieldF fieldX fieldY fieldN
  apply BitVec.eq_of_getLsbD_eq
  intro k hk
  simp only [BitVec.getLsbD_append, BitVec.getLsbD_extractLsb']
  interval_cases k <;> simp

/-- A word and its two bytes, high byte first (R58). -/
theorem wordOf_bytes (w : Word) : wordOf (hiByte w) (loByte w) = w := by
  unfold wordOf hiByte loByte
  apply BitVec.eq_of_getLsbD_eq
  intro k hk
  simp only [BitVec.getLsbD_append, BitVec.getLsbD_extractLsb']
  interval_cases k <;> simp

/-- The decoder on a word's bytes is the decoder on the word. -/
theorem decodeBytes_word (policy : Config.SysPolicy) (w : Word) (rest : List Byte) :
    decodeBytes policy (hiByte w :: loByte w :: rest) = (decode policy w).map fun i => (i, rest) := by
  simp only [decodeBytes, wordOf_bytes]

end Sys2Proof
end

