-- ==== Sys2Proof/Laws/Memory.lean ====
section
/-!
SUPPORT. The laws of memory (20_memory R50, R64): a read after a write to the same address gives the byte written, a
write leaves every other address alone, and every memory operation keeps the canonical form.
-/
namespace Sys2Proof.Machine

variable (p : Config.Params)

theorem Memory.wfFrom_mono {lo lo' : Nat} {m : Memory} (h : lo' ≤ lo) (hm : Memory.wfFrom p lo m = true) :
    Memory.wfFrom p lo' m = true := by
  cases m with
  | nil => rfl
  | cons c rest =>
    simp only [Memory.wfFrom, Bool.and_eq_true, decide_eq_true_eq] at hm ⊢
    exact ⟨⟨⟨by omega, hm.1.1.2⟩, hm.1.2⟩, hm.2⟩

/-- Below the form's first address everything reads as its reset content. -/
theorem Memory.read_of_lt_wfFrom {lo a : Nat} (m : Memory) (h : Memory.wfFrom p lo m = true) (ha : a < lo) :
    Memory.read p m a = Memory.resetByte p a := by
  induction m generalizing lo with
  | nil => rfl
  | cons c rest ih =>
    simp only [Memory.wfFrom, Bool.and_eq_true, decide_eq_true_eq] at h
    simp only [Memory.read, if_neg (show a ≠ c.1 by omega)]
    exact ih h.2 (by omega)

theorem Memory.wfFrom_write {lo a : Nat} (w : Byte) (m : Memory) (h : Memory.wfFrom p lo m = true)
    (hlo : lo ≤ a) (ha : a < 4096) : Memory.wfFrom p lo (Memory.write p m a w) = true := by
  induction m generalizing lo with
  | nil =>
    unfold Memory.write
    split <;> simp_all [Memory.wfFrom]
  | cons c rest ih =>
    simp only [Memory.wfFrom, Bool.and_eq_true, decide_eq_true_eq] at h
    obtain ⟨⟨⟨h1, h2⟩, h3⟩, h4⟩ := h
    have hrest : ∀ k, k ≤ c.1 + 1 → Memory.wfFrom p k rest = true := fun k hk => Memory.wfFrom_mono p hk h4
    unfold Memory.write
    split
    · split <;> simp_all [Memory.wfFrom]
    · split
      · split
        · exact hrest lo (by omega)
        · next hlt heq hw => subst heq; simp [Memory.wfFrom, h4, hw, h1, h2]
      · next hlt hne => simp [Memory.wfFrom, h1, h2, h3, ih h4 (by omega)]

/-- Every write keeps the canonical form. -/
theorem Memory.wf_write {m : Memory} {a : Nat} (w : Byte) (h : Memory.wf p m = true) (ha : a < 4096) :
    Memory.wf p (Memory.write p m a w) = true :=
  Memory.wfFrom_write p w m h (Nat.zero_le a) ha

theorem Memory.wf_writeBytes {m : Memory} {a : Nat} (bytes : List Byte) (h : Memory.wf p m = true)
    (ha : a + bytes.length ≤ 4096) : Memory.wf p (Memory.writeBytes p m a bytes) = true := by
  induction bytes generalizing m a with
  | nil => exact h
  | cons w rest ih =>
    simp only [List.length_cons] at ha
    exact ih (Memory.wf_write p w h (by omega)) (by omega)

@[simp] theorem Memory.wf_nil : Memory.wf p [] = true := rfl

theorem Memory.read_write_wfFrom {lo : Nat} (a b : Nat) (w : Byte) (m : Memory) (h : Memory.wfFrom p lo m = true) :
    Memory.read p (Memory.write p m a w) b = if b = a then w else Memory.read p m b := by
  induction m generalizing lo with
  | nil =>
    by_cases hw : w = Memory.resetByte p a
    · simp only [Memory.write, if_pos hw, Memory.read]
      split
      · next hb => rw [hb, hw]
      · rfl
    · simp [Memory.write, hw, Memory.read]
  | cons c rest ih =>
    simp only [Memory.wfFrom, Bool.and_eq_true, decide_eq_true_eq] at h
    obtain ⟨⟨⟨h1, h2⟩, h3⟩, h4⟩ := h
    unfold Memory.write
    split
    · next hlt =>
      split
      · next hw =>
        split
        · next hb =>
          subst hb
          rw [hw]
          simp only [Memory.read, if_neg (show b ≠ c.1 by omega)]
          exact Memory.read_of_lt_wfFrom p rest h4 (by omega)
        · rfl
      · simp [Memory.read]
    · split
      · next hlt heq =>
        subst heq
        split
        · next hw =>
          by_cases hb : b = c.1
          · subst hb
            simp only [if_true, hw]
            exact Memory.read_of_lt_wfFrom p rest h4 (by omega)
          · simp [Memory.read, hb]
        · by_cases hb : b = c.1 <;> simp [Memory.read, hb]
      · next hlt hne =>
        simp only [Memory.read, ih h4]
        by_cases hb : b = c.1
        · simp [hb, Ne.symm hne]
        · simp [hb]

/-- R64: a read returns the byte most recently written to that address, and a write changes no other address. -/
theorem Memory.read_write {m : Memory} (a b : Nat) (w : Byte) (h : Memory.wf p m = true) :
    Memory.read p (Memory.write p m a w) b = if b = a then w else Memory.read p m b :=
  Memory.read_write_wfFrom p a b w m h

/-- Bytes stored at ascending addresses: inside the span the stored byte is read, outside it nothing changed. -/
theorem Memory.read_writeBytes {m : Memory} (a b : Nat) (bytes : List Byte) (h : Memory.wf p m = true)
    (ha : a + bytes.length ≤ 4096) :
    Memory.read p (Memory.writeBytes p m a bytes) b =
      if hb : a ≤ b ∧ b < a + bytes.length then bytes[b - a]'(by omega) else Memory.read p m b := by
  induction bytes generalizing m a with
  | nil => rw [dif_neg (by simp only [List.length_nil]; omega)]; rfl
  | cons w rest ih =>
    simp only [List.length_cons] at ha
    rw [Memory.writeBytes, ih (a + 1) (Memory.wf_write p w h (by omega)) (by omega), Memory.read_write p a b w h]
    by_cases hb : b = a
    · subst hb
      rw [dif_neg (by omega), dif_pos (by simp only [List.length_cons]; omega)]
      simp
    · by_cases hin : a + 1 ≤ b ∧ b < a + 1 + rest.length
      · rw [dif_pos hin, dif_pos (by simp only [List.length_cons]; omega)]
        obtain ⟨k, rfl⟩ : ∃ k, b = a + 1 + k := ⟨b - (a + 1), by omega⟩
        have e1 : a + 1 + k - (a + 1) = k := by omega
        have e2 : a + 1 + k - a = k + 1 := by omega
        simp only [e1, e2, List.getElem_cons_succ]
      · rw [dif_neg hin, dif_neg (by simp only [List.length_cons]; omega), if_neg hb]

/-- Without the form: a write still changes no other address. -/
theorem Memory.read_write_other (a b : Nat) (w : Byte) (m : Memory) (h : b ≠ a) :
    Memory.read p (Memory.write p m a w) b = Memory.read p m b := by
  induction m with
  | nil =>
    unfold Memory.write
    split <;> simp [Memory.read, h]
  | cons c rest ih =>
    unfold Memory.write
    split
    · split <;> simp [Memory.read, h]
    · split
      · next heq => split <;> simp [Memory.read, h, ← heq]
      · simp [Memory.read, ih]

theorem Memory.read_writeBytes_outside (a b : Nat) (bytes : List Byte) (m : Memory)
    (h : b < a ∨ a + bytes.length ≤ b) :
    Memory.read p (Memory.writeBytes p m a bytes) b = Memory.read p m b := by
  induction bytes generalizing m a with
  | nil => rfl
  | cons w rest ih =>
    simp only [List.length_cons] at h
    rw [Memory.writeBytes, ih (a + 1) _ (by omega), Memory.read_write_other p a b w m (by omega)]

/-- The memory of the reset state has the form. -/
theorem State.reset_memory_wf : Memory.wf State.reset.params State.reset.mem = true := rfl

/-- A Reset with an image that fits leaves a memory of the form. -/
theorem State.resetWith_memory_wf (s : State) (image : List Byte) (h : image.length ≤ 3584) :
    Memory.wf (s.resetWith image).params (s.resetWith image).mem = true := by
  simp only [State.resetWith_params, State.resetWith_mem]
  exact Memory.wf_writeBytes _ image (Memory.wf_nil _) (by omega)

end Sys2Proof.Machine
end

