-- ==== Sys2Proof/Laws/Ops.lean ====
section
/-!
SUPPORT. One lemma per shared operation that says everything it does, for the provers to cite instead of unfolding it.
-/
namespace Sys2Proof.Machine

/-! ### Registers -/

theorem State.reg_writeReg (s : State) (x r : Nibble) (b : Byte) :
    (s.writeReg x b).reg r = if r = x then b else s.reg r := by
  unfold State.reg
  simp only [State.writeReg_v, Vector.getElem_set, BitVec.toNat_inj, eq_comm]

@[simp] theorem State.reg_writeReg_same (s : State) (x : Nibble) (b : Byte) : (s.writeReg x b).reg x = b := by
  simp [State.reg_writeReg]

theorem State.reg_writeReg_other (s : State) {x r : Nibble} (b : Byte) (h : r ≠ x) :
    (s.writeReg x b).reg r = s.reg r := by
  simp [State.reg_writeReg, h]

/-- R141: the flag is written last and replaces the result where the destination is VF. -/
theorem State.reg_writeResultFlag (s : State) (x r : Nibble) (b : Byte) (c : Bool) :
    (s.writeResultFlag x b c).reg r = if r = flagReg then flagByte c else if r = x then b else s.reg r := by
  simp only [State.writeResultFlag, State.reg_writeReg]

theorem State.reg_writeRegsTo (s : State) (x r : Nibble) (f : Nat → Byte) :
    (s.writeRegsTo x f).reg r = if r.toNat ≤ x.toNat then f r.toNat else s.reg r := by
  unfold State.reg
  simp [State.writeRegsTo_v]

theorem State.regsTo_length (s : State) (x : Nibble) : (s.regsTo x).length = x.toNat + 1 := by
  have := x.isLt
  simp [State.regsTo]
  omega

theorem State.regsTo_getElem (s : State) (x r : Nibble) (h : r.toNat ≤ x.toNat) :
    (s.regsTo x)[r.toNat]'(by rw [State.regsTo_length]; omega) = s.reg r := by
  simp [State.regsTo, State.reg]

/-- A register read does not see the other fields. -/
theorem State.reg_congr {s t : State} (h : t.v = s.v) (r : Nibble) : t.reg r = s.reg r := by
  unfold State.reg; simp only [h]

theorem State.readByte_congr {s t : State} (hm : t.mem = s.mem) (hp : t.params = s.params) (a : Nat) :
    t.readByte a = s.readByte a := by
  unfold State.readByte; rw [hm, hp]

theorem State.pixel_congr {s t : State} (h : t.d = s.d) (x : Fin 64) (y : Fin 32) : t.pixel x y = s.pixel x y := by
  unfold State.pixel; rw [h]

/-! ### Frames -/

/-- A part that an operation's fields do not touch is kept; the shape every frame is proved by. -/
theorem State.keeps_of_fields {s t : State} (changed : List Part)
    (hmem : Part.memory ∈ changed ∨ (t.mem = s.mem ∧ t.params = s.params))
    (hv : Part.gpr ∈ changed ∨ t.v = s.v)
    (hi : Part.addressReg ∈ changed ∨ t.i = s.i)
    (hpc : Part.pc ∈ changed ∨ t.pc = s.pc)
    (hst : Part.stack ∈ changed ∨ (t.sp = s.sp ∧ t.stk = s.stk))
    (hdt : Part.delay ∈ changed ∨ t.dt = s.dt)
    (hso : Part.sound ∈ changed ∨ t.st = s.st)
    (hd : Part.display ∈ changed ∨ t.d = s.d)
    (hs : Part.status ∈ changed ∨ t.status = s.status)
    (hk : Part.keyLatch ∈ changed ∨ t.kx = s.kx)
    (hf : Part.faultLatches ∈ changed ∨ (t.fcode = s.fcode ∧ t.fpc = s.fpc ∧ t.fword = s.fword))
    (hp : Part.params ∈ changed ∨ t.params = s.params)
    (he : Part.env ∈ changed ∨ t.env = s.env) : s.KeepsAllBut t changed := by
  intro p hp'
  cases p with
  | memory => exact State.readByte_congr (hmem.resolve_left hp').1 (hmem.resolve_left hp').2
  | gpr => exact State.reg_congr (hv.resolve_left hp')
  | addressReg => exact hi.resolve_left hp'
  | pc => exact hpc.resolve_left hp'
  | stack => exact hst.resolve_left hp'
  | delay => exact hdt.resolve_left hp'
  | sound => exact hso.resolve_left hp'
  | display => exact State.pixel_congr (hd.resolve_left hp')
  | status => exact hs.resolve_left hp'
  | keyLatch => exact hk.resolve_left hp'
  | faultLatches => exact hf.resolve_left hp'
  | params => exact hp.resolve_left hp'
  | env => exact he.resolve_left hp'

/-! ### The fault entry -/

/-- R200: what raising a fault does. -/
theorem State.raise_entered (s : State) (e : Fault) (w : Word) : FaultEntered s (s.raise e w) e.code w :=
  ⟨rfl, rfl, rfl, rfl, State.keeps_of_fields _ (.inr ⟨rfl, rfl⟩) (.inr rfl) (.inr rfl) (.inr rfl)
    (.inr ⟨rfl, rfl⟩) (.inr rfl) (.inr rfl) (.inr rfl) (.inl (by decide)) (.inr rfl) (.inl (by decide))
    (.inr rfl) (.inr rfl)⟩

/-! ### The display -/

theorem State.pixel_setDisplay (s : State) (d : Display) (x : Fin 64) (y : Fin 32) :
    (s.setDisplay d).pixel x y = d[y][x] := rfl

/-- One bit of a sprite changes its own wrapped pixel and no other. -/
theorem blitBit_pixel (x y : Nat) (bit : Bool) (acc : Display × Bool) (col : Fin 64) (row : Fin 32) :
    (blitBit x y bit acc).1[row][col] =
      if row.val = y % 32 ∧ col.val = x % 64 then acc.1[row][col] ^^ bit else acc.1[row][col] := by
  have hr : (Fin.ofNat 32 y).val = y % 32 := rfl
  have hc : (Fin.ofNat 64 x).val = x % 64 := rfl
  unfold blitBit
  by_cases h1 : row.val = y % 32
  · have e1 : Fin.ofNat 32 y = row := Fin.ext (by rw [hr, h1])
    by_cases h2 : col.val = x % 64
    · simp [h1, h2]
    · have e2 : ¬ (x % 64 = col.val) := fun h => h2 h.symm
      simp only [e1, h2, and_false, if_false]
      simp [e2]
  · have e1 : ¬ (y % 32 = row.val) := fun h => h1 h.symm
    simp [h1, e1]

/-- A bit collides exactly when it and its wrapped pixel are on. -/
theorem blitBit_collision (x y : Nat) (bit : Bool) (acc : Display × Bool) :
    (blitBit x y bit acc).2 = (acc.2 || (acc.1[Fin.ofNat 32 y][Fin.ofNat 64 x] && bit)) := by
  unfold blitBit
  dsimp only
  cases acc.1[Fin.ofNat 32 y][Fin.ofNat 64 x] <;> cases bit <;> rfl

/-! ### Outcomes -/

/-- The oldest pending event is taken. -/
theorem State.takeEvent_nonempty {s : State} {e : Event} {rest : List Event} (h : s.env.pending = e :: rest) :
    s.takeEvent = (e, { s with env := { s.env with pending := rest } }) := by
  unfold State.takeEvent; rw [h]

/-- With nothing scripted and `rst` at 1 the core stays held in reset. -/
theorem State.takeEvent_held {s : State} {writes : List (BitVec 12 × Byte)} (h : s.env.pending = [])
    (hl : s.env.loading = some writes) : s.takeEvent = (.reset (loadedImage writes), s) := by
  unfold State.takeEvent; rw [h, hl]

/-- With nothing scripted and `rst` at 0 a free event is taken. -/
theorem State.takeEvent_empty {s : State} (h : s.env.pending = []) (hl : s.env.loading = none) :
    s.takeEvent = (freeEvent s.env.draws, { s with env := { s.env with draws := s.env.draws + 1 } }) := by
  unfold State.takeEvent; rw [h, hl]

@[simp] theorem length_loadedImage (writes : List (BitVec 12 × Byte)) : (loadedImage writes).length = 3584 := by
  simp only [loadedImage, List.length_map, List.length_range]

/-- A Reset the list does not script has an image that fits. -/
theorem freeEvent_image_fits {n : Nat} {image : List Byte} (h : freeEvent n = .reset image) : image.length ≤ 3584 := by
  unfold freeEvent at h
  split at h <;> cases h
  simp only [List.length_take]; omega

/-- Taking an event changes the environment's side only. -/
theorem State.takeEvent_keeps (s : State) : s.KeepsAllBut s.takeEvent.2 [.env] := by
  unfold State.takeEvent
  split <;> exact State.keeps_of_fields _ (.inr ⟨rfl, rfl⟩) (.inr rfl) (.inr rfl) (.inr rfl)
    (.inr ⟨rfl, rfl⟩) (.inr rfl) (.inr rfl) (.inr rfl) (.inr rfl) (.inr rfl) (.inr ⟨rfl, rfl, rfl⟩)
    (.inr rfl) (.inl (by decide))

end Sys2Proof.Machine
end

