-- ==== Sys2Proof/Laws/Draw.lean ====
section
/-!
SUPPORT. What the sprite-draw engine does (44_display R161 to R165), one lemma for a row of bits and one for a list of
rows: every pixel under a 1 bit toggles, no other changes, and the collision is the OR over the touched pixels' old
values. A row touches a pixel once, since 8 columns are distinct modulo 64 (R165 (a)); so do the rows, up to 32 of
them.
-/
namespace Sys2Proof.Machine

/-- Bit `c` of the row `b` drawn at column `x0` wraps to column `col` and is 1, for some `c` below `k`. -/
def RowBit (x0 k : Nat) (b : Byte) (col : Fin 64) : Prop :=
  ∃ c, c < k ∧ col.val = (x0 + c) % 64 ∧ b.getLsbD (7 - c) = true

/-- The first `k` bits of a row. -/
def blitBits (x0 y : Nat) (b : Byte) (k : Nat) (acc : Display × Bool) : Display × Bool :=
  (List.range k).foldl (fun acc c => blitBit (x0 + c) y (b.getLsbD (7 - c)) acc) acc

theorem blitBits_succ (x0 y : Nat) (b : Byte) (k : Nat) (acc : Display × Bool) :
    blitBits x0 y b (k + 1) acc = blitBit (x0 + k) y (b.getLsbD (7 - k)) (blitBits x0 y b k acc) := by
  simp [blitBits, List.range_succ]

theorem blitBits_other_row (x0 y : Nat) (b : Byte) (k : Nat) (acc : Display × Bool) (col : Fin 64) (row : Fin 32)
    (h : row.val ≠ y % 32) : (blitBits x0 y b k acc).1[row][col] = acc.1[row][col] := by
  induction k with
  | zero => rfl
  | succ k ih => rw [blitBits_succ, blitBit_pixel, if_neg (fun hc => h hc.1), ih]

theorem blitBits_row (x0 y : Nat) (b : Byte) (k : Nat) (hk : k ≤ 8) (acc : Display × Bool) (col : Fin 64)
    (row : Fin 32) (h : row.val = y % 32) :
    (RowBit x0 k b col → (blitBits x0 y b k acc).1[row][col] = !acc.1[row][col]) ∧
    (¬ RowBit x0 k b col → (blitBits x0 y b k acc).1[row][col] = acc.1[row][col]) := by
  induction k with
  | zero => exact ⟨fun ⟨c, hc, _⟩ => absurd hc (Nat.not_lt_zero c), fun _ => rfl⟩
  | succ k ih =>
    obtain ⟨ih1, ih2⟩ := ih (by omega)
    rw [blitBits_succ, blitBit_pixel]
    by_cases hcol : col.val = (x0 + k) % 64
    · rw [if_pos ⟨h, hcol⟩]
      have hnew : ¬ RowBit x0 k b col := by
        rintro ⟨c, hc, hc2, -⟩
        omega
      rw [ih2 hnew]
      by_cases hb : b.getLsbD (7 - k) = true
      · rw [hb]
        exact ⟨fun _ => Bool.xor_true _, fun hn => absurd ⟨k, by omega, hcol, hb⟩ hn⟩
      · rw [Bool.not_eq_true] at hb
        rw [hb]
        refine ⟨?_, fun _ => Bool.xor_false _⟩
        rintro ⟨c, hc, hc2, hc3⟩
        obtain rfl : c = k := by omega
        rw [hb] at hc3
        cases hc3
    · rw [if_neg (fun hc => hcol hc.2)]
      have hiff : RowBit x0 (k + 1) b col ↔ RowBit x0 k b col := by
        constructor
        · rintro ⟨c, hc, hc2, hc3⟩
          refine ⟨c, ?_, hc2, hc3⟩
          rcases Nat.lt_succ_iff_lt_or_eq.mp hc with h1 | rfl
          · exact h1
          · exact absurd hc2 hcol
        · rintro ⟨c, hc, hc2, hc3⟩
          exact ⟨c, by omega, hc2, hc3⟩
      rw [hiff]
      exact ⟨ih1, ih2⟩

theorem blitBits_collision (x0 y : Nat) (b : Byte) (k : Nat) (hk : k ≤ 8) (acc : Display × Bool) :
    (blitBits x0 y b k acc).2 = true ↔
      acc.2 = true ∨ ∃ col, RowBit x0 k b col ∧ acc.1[Fin.ofNat 32 y][col] = true := by
  induction k with
  | zero => exact ⟨.inl, fun h => h.elim id fun ⟨_, ⟨c, hc, _⟩, _⟩ => absurd hc (Nat.not_lt_zero c)⟩
  | succ k ih =>
    have hold : (blitBits x0 y b k acc).1[Fin.ofNat 32 y][Fin.ofNat 64 (x0 + k)] =
        acc.1[Fin.ofNat 32 y][Fin.ofNat 64 (x0 + k)] := by
      refine (blitBits_row x0 y b k (by omega) acc _ _ rfl).2 ?_
      rintro ⟨c, hc, hc2, -⟩
      have : (Fin.ofNat 64 (x0 + k)).val = (x0 + k) % 64 := rfl
      omega
    rw [blitBits_succ, blitBit_collision, Bool.or_eq_true, Bool.and_eq_true, hold, ih (by omega)]
    constructor
    · rintro ((h | ⟨col, ⟨c, hc, h2, h3⟩, h4⟩) | ⟨h1, h2⟩)
      · exact .inl h
      · exact .inr ⟨col, ⟨c, by omega, h2, h3⟩, h4⟩
      · exact .inr ⟨_, ⟨k, by omega, rfl, h2⟩, h1⟩
    · rintro (h | ⟨col, ⟨c, hc, h2, h3⟩, h4⟩)
      · exact .inl (.inl h)
      · rcases Nat.lt_succ_iff_lt_or_eq.mp hc with h1 | rfl
        · exact .inl (.inr ⟨col, ⟨c, h1, h2, h3⟩, h4⟩)
        · have e : Fin.ofNat 64 (x0 + c) = col := Fin.ext h2.symm
          exact .inr ⟨by simp only [e]; exact h4, h3⟩

theorem blitRow_eq (x0 y : Nat) (b : Byte) (acc : Display × Bool) : blitRow x0 y b acc = blitBits x0 y b 8 acc := rfl

/-- Some byte of the list, at row `y` and down, has a 1 bit that wraps to the pixel. -/
def RowsBit (x0 y : Nat) (bytes : List Byte) (col : Fin 64) (row : Fin 32) : Prop :=
  ∃ r, ∃ h : r < bytes.length, row.val = (y + r) % 32 ∧ RowBit x0 8 bytes[r] col

theorem RowsBit_cons (x0 y : Nat) (b : Byte) (rest : List Byte) (col : Fin 64) (row : Fin 32) :
    RowsBit x0 y (b :: rest) col row ↔
      (row.val = y % 32 ∧ RowBit x0 8 b col) ∨ RowsBit x0 (y + 1) rest col row := by
  constructor
  · rintro ⟨r, hr, h1, h2⟩
    cases r with
    | zero => exact .inl ⟨h1, h2⟩
    | succ r => exact .inr ⟨r, by simpa using hr, by rw [h1]; congr 1; omega, by simpa using h2⟩
  · rintro (⟨h1, h2⟩ | ⟨r, hr, h1, h2⟩)
    · exact ⟨0, by simp, h1, h2⟩
    · exact ⟨r + 1, by simpa using hr, by rw [h1]; congr 1; omega, by simpa using h2⟩

/-- The rows of a sprite: the display after the draw. -/
theorem blitRows_pixel (x0 y : Nat) (bytes : List Byte) (hl : bytes.length ≤ 32) (acc : Display × Bool)
    (col : Fin 64) (row : Fin 32) :
    (RowsBit x0 y bytes col row → (blitRows x0 y bytes acc).1[row][col] = !acc.1[row][col]) ∧
    (¬ RowsBit x0 y bytes col row → (blitRows x0 y bytes acc).1[row][col] = acc.1[row][col]) := by
  induction bytes generalizing y acc with
  | nil => exact ⟨fun ⟨_, hr, _⟩ => absurd hr (by simp), fun _ => rfl⟩
  | cons b rest ih =>
    simp only [List.length_cons] at hl
    obtain ⟨ih1, ih2⟩ := ih (y + 1) (by omega) (blitRow x0 y b acc)
    rw [RowsBit_cons, blitRows]
    by_cases hrow : row.val = y % 32
    · have hno : ¬ RowsBit x0 (y + 1) rest col row := by
        rintro ⟨r, hr, h1, -⟩
        omega
      obtain ⟨r1, r2⟩ := blitBits_row x0 y b 8 (Nat.le_refl 8) acc col row hrow
      rw [ih2 hno, blitRow_eq]
      exact ⟨fun h => r1 (h.elim (·.2) (fun h => absurd h hno)), fun h => r2 fun hb => h (.inl ⟨hrow, hb⟩)⟩
    · rw [blitRow_eq] at ih1 ih2 ⊢
      rw [blitBits_other_row x0 y b 8 acc col row hrow] at ih1 ih2
      exact ⟨fun h => ih1 (h.elim (fun h => absurd h.1 hrow) id), fun h => ih2 fun hb => h (.inr hb)⟩

/-- The rows of a sprite: the collision. -/
theorem blitRows_collision (x0 y : Nat) (bytes : List Byte) (hl : bytes.length ≤ 32) (acc : Display × Bool) :
    (blitRows x0 y bytes acc).2 = true ↔
      acc.2 = true ∨ ∃ col row, RowsBit x0 y bytes col row ∧ acc.1[row][col] = true := by
  induction bytes generalizing y acc with
  | nil => exact ⟨.inl, fun h => h.elim id fun ⟨_, _, ⟨_, hr, _⟩, _⟩ => absurd hr (by simp)⟩
  | cons b rest ih =>
    simp only [List.length_cons] at hl
    rw [blitRows, ih (y + 1) (by omega), blitRow_eq, blitBits_collision x0 y b 8 (Nat.le_refl 8)]
    have hkeep : ∀ col row, RowsBit x0 (y + 1) rest col row →
        (blitBits x0 y b 8 acc).1[row][col] = acc.1[row][col] := by
      rintro col row ⟨r, hr, h1, -⟩
      exact blitBits_other_row x0 y b 8 acc col row (by omega)
    constructor
    · rintro ((h | ⟨col, h1, h2⟩) | ⟨col, row, h1, h2⟩)
      · exact .inl h
      · exact .inr ⟨col, Fin.ofNat 32 y, (RowsBit_cons ..).mpr (.inl ⟨rfl, h1⟩), h2⟩
      · exact .inr ⟨col, row, (RowsBit_cons ..).mpr (.inr h1), by rw [hkeep col row h1] at h2; exact h2⟩
    · rintro (h | ⟨col, row, h1, h2⟩)
      · exact .inl (.inl h)
      · rcases (RowsBit_cons ..).mp h1 with ⟨h3, h4⟩ | h3
        · have e : Fin.ofNat 32 y = row := Fin.ext h3.symm
          exact .inl (.inr ⟨col, h4, by simp only [e]; exact h2⟩)
        · exact .inr ⟨col, row, h3, by rw [hkeep col row h3]; exact h2⟩

/-- The sprite mask of Safety.lean is the list of the sprite's bytes on its rows. -/
theorem spriteBit_iff (s : State) (x y n : Nibble) (col : Fin 64) (row : Fin 32) :
    SpriteBit s x y n col row ↔
      RowsBit (s.reg x).toNat (s.reg y).toNat (s.readBytes s.i.toNat n.toNat) col row := by
  constructor
  · rintro ⟨r, c, hr, hc, h1, h2, h3⟩
    exact ⟨r, by simpa [State.readBytes] using hr, h1, c, hc, h2, by simpa [State.readBytes] using h3⟩
  · rintro ⟨r, hr, h1, c, hc, h2, h3⟩
    exact ⟨r, c, by simpa [State.readBytes] using hr, hc, h1, h2, by simpa [State.readBytes] using h3⟩

end Sys2Proof.Machine
end

