-- ==== Sys2Proof/Laws/PerInstr.lean ====
section
/-!
SUPPORT. The per-instruction family RowMatch: the word the encoder gives an instruction lies in the instruction's row
of the opcode map, (w & mask) = match (30_encoding R90).
-/
namespace Sys2Proof.Laws

/-- (encode i & mask) = match, for the row of `i`. -/
def RowMatch.Statement (i : Instr) : Prop := encode i &&& i.row.1 = i.row.2

/-- Format A keeps its family under the mask F000. -/
theorem formatA_family (f : Nibble) (nnn : Addr) : formatA f nnn &&& 0xF000 = f ++ (0 : Addr) := by
  unfold formatA
  ext k hk
  simp only [BitVec.getElem_and, BitVec.getElem_append]
  split
  · interval_cases k <;> simp
  · have := hk; interval_cases k <;> simp_all

/-- Format XI keeps its family under the mask F000. -/
theorem formatXI_family (f x : Nibble) (nn : Byte) : formatXI f x nn &&& 0xF000 = f ++ (0 : Addr) := by
  unfold formatXI
  ext k hk
  simp only [BitVec.getElem_and, BitVec.getElem_append]
  have := hk; interval_cases k <;> simp

/-- Format XI keeps family and selector byte under the mask F0FF. -/
theorem formatXI_selector (f x : Nibble) (nn : Byte) : formatXI f x nn &&& 0xF0FF = f ++ (0 : Nibble) ++ nn := by
  unfold formatXI
  ext k hk
  simp only [BitVec.getElem_and, BitVec.getElem_append]
  have := hk; interval_cases k <;> simp

/-- Format XYN keeps its family under the mask F000. -/
theorem formatXYN_family (f x y n : Nibble) : formatXYN f x y n &&& 0xF000 = f ++ (0 : Addr) := by
  unfold formatXYN
  ext k hk
  simp only [BitVec.getElem_and, BitVec.getElem_append]
  have := hk; interval_cases k <;> simp

/-- Format XYN keeps family and selector nibble under the mask F00F. -/
theorem formatXYN_selector (f x y n : Nibble) : formatXYN f x y n &&& 0xF00F = f ++ (0 : Byte) ++ n := by
  unfold formatXYN
  ext k hk
  simp only [BitVec.getElem_and, BitVec.getElem_append]
  have := hk; interval_cases k <;> simp

theorem RowMatch.cls : RowMatch.Statement (.cls) :=
  rfl

theorem RowMatch.ret : RowMatch.Statement (.ret) :=
  rfl

theorem RowMatch.sys (nnn : Addr) : RowMatch.Statement (.sys nnn) :=
  (formatA_family _ nnn).trans rfl

theorem RowMatch.jp (nnn : Addr) : RowMatch.Statement (.jp nnn) :=
  (formatA_family _ nnn).trans rfl

theorem RowMatch.call (nnn : Addr) : RowMatch.Statement (.call nnn) :=
  (formatA_family _ nnn).trans rfl

theorem RowMatch.seImm (x : Nibble) (nn : Byte) : RowMatch.Statement (.seImm x nn) :=
  (formatXI_family _ x nn).trans rfl

theorem RowMatch.sneImm (x : Nibble) (nn : Byte) : RowMatch.Statement (.sneImm x nn) :=
  (formatXI_family _ x nn).trans rfl

theorem RowMatch.seReg (x : Nibble) (y : Nibble) (n : Nibble) : RowMatch.Statement (.seReg x y n) :=
  (formatXYN_family _ x y n).trans rfl

theorem RowMatch.ldImm (x : Nibble) (nn : Byte) : RowMatch.Statement (.ldImm x nn) :=
  (formatXI_family _ x nn).trans rfl

theorem RowMatch.addImm (x : Nibble) (nn : Byte) : RowMatch.Statement (.addImm x nn) :=
  (formatXI_family _ x nn).trans rfl

theorem RowMatch.ldReg (x : Nibble) (y : Nibble) : RowMatch.Statement (.ldReg x y) :=
  (formatXYN_selector _ x y _).trans rfl

theorem RowMatch.orReg (x : Nibble) (y : Nibble) : RowMatch.Statement (.orReg x y) :=
  (formatXYN_selector _ x y _).trans rfl

theorem RowMatch.andReg (x : Nibble) (y : Nibble) : RowMatch.Statement (.andReg x y) :=
  (formatXYN_selector _ x y _).trans rfl

theorem RowMatch.xorReg (x : Nibble) (y : Nibble) : RowMatch.Statement (.xorReg x y) :=
  (formatXYN_selector _ x y _).trans rfl

theorem RowMatch.addReg (x : Nibble) (y : Nibble) : RowMatch.Statement (.addReg x y) :=
  (formatXYN_selector _ x y _).trans rfl

theorem RowMatch.sub (x : Nibble) (y : Nibble) : RowMatch.Statement (.sub x y) :=
  (formatXYN_selector _ x y _).trans rfl

theorem RowMatch.shr (x : Nibble) (y : Nibble) : RowMatch.Statement (.shr x y) :=
  (formatXYN_selector _ x y _).trans rfl

theorem RowMatch.subn (x : Nibble) (y : Nibble) : RowMatch.Statement (.subn x y) :=
  (formatXYN_selector _ x y _).trans rfl

theorem RowMatch.shl (x : Nibble) (y : Nibble) : RowMatch.Statement (.shl x y) :=
  (formatXYN_selector _ x y _).trans rfl

theorem RowMatch.sneReg (x : Nibble) (y : Nibble) (n : Nibble) : RowMatch.Statement (.sneReg x y n) :=
  (formatXYN_family _ x y n).trans rfl

theorem RowMatch.ldI (nnn : Addr) : RowMatch.Statement (.ldI nnn) :=
  (formatA_family _ nnn).trans rfl

theorem RowMatch.jpV0 (nnn : Addr) : RowMatch.Statement (.jpV0 nnn) :=
  (formatA_family _ nnn).trans rfl

theorem RowMatch.rnd (x : Nibble) (nn : Byte) : RowMatch.Statement (.rnd x nn) :=
  (formatXI_family _ x nn).trans rfl

theorem RowMatch.drw (x : Nibble) (y : Nibble) (n : Nibble) : RowMatch.Statement (.drw x y n) :=
  (formatXYN_family _ x y n).trans rfl

theorem RowMatch.skp (x : Nibble) : RowMatch.Statement (.skp x) :=
  (formatXI_selector _ x _).trans rfl

theorem RowMatch.sknp (x : Nibble) : RowMatch.Statement (.sknp x) :=
  (formatXI_selector _ x _).trans rfl

theorem RowMatch.ldVxDt (x : Nibble) : RowMatch.Statement (.ldVxDt x) :=
  (formatXI_selector _ x _).trans rfl

theorem RowMatch.ldVxK (x : Nibble) : RowMatch.Statement (.ldVxK x) :=
  (formatXI_selector _ x _).trans rfl

theorem RowMatch.ldDtVx (x : Nibble) : RowMatch.Statement (.ldDtVx x) :=
  (formatXI_selector _ x _).trans rfl

theorem RowMatch.ldStVx (x : Nibble) : RowMatch.Statement (.ldStVx x) :=
  (formatXI_selector _ x _).trans rfl

theorem RowMatch.addIVx (x : Nibble) : RowMatch.Statement (.addIVx x) :=
  (formatXI_selector _ x _).trans rfl

theorem RowMatch.ldFVx (x : Nibble) : RowMatch.Statement (.ldFVx x) :=
  (formatXI_selector _ x _).trans rfl

theorem RowMatch.ldBVx (x : Nibble) : RowMatch.Statement (.ldBVx x) :=
  (formatXI_selector _ x _).trans rfl

theorem RowMatch.ldMemVx (x : Nibble) : RowMatch.Statement (.ldMemVx x) :=
  (formatXI_selector _ x _).trans rfl

theorem RowMatch.ldVxMem (x : Nibble) : RowMatch.Statement (.ldVxMem x) :=
  (formatXI_selector _ x _).trans rfl

end Sys2Proof.Laws
end

