-- ==== Sys2Proof/Laws/Step.lean ====
section
/-!
SUPPORT. What a Step event does (30_encoding R85), one lemma per case, and what each event is; a proof about `step` or
`perform` cites these and does not unfold them.
-/
namespace Sys2Proof.Machine

theorem spanFaults_eq_false {base n : Nat} (h : base + n ≤ 4096) : spanFaults base n = false := by
  simp only [spanFaults, decide_eq_false_iff_not]; omega

theorem spanFaults_eq_true {base n : Nat} (h0 : 0 < n) (h : 4096 < base + n) : spanFaults base n = true := by
  simp only [spanFaults, decide_eq_true_eq]; omega

/-- Waiting or halted: nothing. -/
theorem cpuStep_idle {s : State} (h : s.status ≠ .running) : cpuStep s = .next s := by
  unfold cpuStep
  split
  · rfl
  · rfl
  · next hr => exact absurd hr h

/-- R86: the fetch fault. -/
theorem cpuStep_fetchFault {s : State} (h : s.status = .running) (hpc : 4095 ≤ s.pc.toNat) :
    cpuStep s = .next (s.raise .addressRangeError 0x0000#16) := by
  have hf : spanFaults s.pc.toNat 2 = true := spanFaults_eq_true (by omega) (by omega)
  unfold cpuStep
  split
  · next hr => exact absurd (h ▸ hr) (by decide)
  · next hr => exact absurd (h ▸ hr) (by decide)
  · rw [if_pos hf]

/-- R192: the decode fault. -/
theorem cpuStep_decodeFault {s : State} {e : DecodeReject} (h : s.status = .running) (hpc : s.pc.toNat ≤ 4094)
    (hd : decode s.params.sysPolicy s.fetchWord = .error e) :
    cpuStep s = .next (s.raise .decodeError s.fetchWord) := by
  have hf : ¬ spanFaults s.pc.toNat 2 = true := by rw [spanFaults_eq_false (by omega)]; decide
  unfold cpuStep
  split
  · next hr => exact absurd (h ▸ hr) (by decide)
  · next hr => exact absurd (h ▸ hr) (by decide)
  · rw [if_neg hf, hd]

/-- Exactly one handler. -/
theorem cpuStep_exec {s : State} {i : Instr} (h : s.status = .running) (hpc : s.pc.toNat ≤ 4094)
    (hd : decode s.params.sysPolicy s.fetchWord = .ok i) : cpuStep s = exec i s := by
  have hf : ¬ spanFaults s.pc.toNat 2 = true := by rw [spanFaults_eq_false (by omega)]; decide
  unfold cpuStep
  split
  · next hr => exact absurd (h ▸ hr) (by decide)
  · next hr => exact absurd (h ▸ hr) (by decide)
  · rw [if_neg hf, hd]

/-- The four cases are all there are. -/
theorem cpuStep_cases (s : State) :
    (s.status ≠ .running ∧ cpuStep s = .next s) ∨
    (s.status = .running ∧ 4095 ≤ s.pc.toNat ∧ cpuStep s = .next (s.raise .addressRangeError 0x0000#16)) ∨
    (s.status = .running ∧ s.pc.toNat ≤ 4094 ∧ (∃ e, decode s.params.sysPolicy s.fetchWord = .error e) ∧
      cpuStep s = .next (s.raise .decodeError s.fetchWord)) ∨
    (s.status = .running ∧ s.pc.toNat ≤ 4094 ∧
      ∃ i, decode s.params.sysPolicy s.fetchWord = .ok i ∧ cpuStep s = exec i s) := by
  by_cases h : s.status = .running
  · by_cases hpc : 4095 ≤ s.pc.toNat
    · exact .inr (.inl ⟨h, hpc, cpuStep_fetchFault h hpc⟩)
    · have hpc' : s.pc.toNat ≤ 4094 := by omega
      cases hd : decode s.params.sysPolicy s.fetchWord with
      | error e => exact .inr (.inr (.inl ⟨h, hpc', ⟨e, rfl⟩, cpuStep_decodeFault h hpc' hd⟩))
      | ok i => exact .inr (.inr (.inr ⟨h, hpc', i, rfl, cpuStep_exec h hpc' hd⟩))
  · exact .inl ⟨h, cpuStep_idle h⟩

/-! ### The events (00_scope R9) -/

theorem perform_step (s : State) (keys : BitVec 16) (rnd : Byte) :
    perform (.step keys rnd) s = cpuStep (s.sampleInputs keys rnd) := rfl

theorem perform_keyEvent (s : State) (k : Nibble) : perform (.keyEvent k) s = .next (s.keyEvent k) := rfl

theorem perform_tick (s : State) : perform .tick s = .next s.tick := rfl

theorem perform_hostRead (s : State) : perform .hostRead s = .next s := rfl

theorem perform_reset {s : State} {image : List Byte} (h : image.length ≤ 3584) :
    perform (.reset image) s = .next (s.resetWith image) := if_pos h

theorem perform_reset_overlong {s : State} {image : List Byte} (h : ¬ image.length ≤ 3584) :
    perform (.reset image) s = .refused (.imageTooLong image.length) := if_neg h

/-- A next state comes from one of the five events, an image that fits among them. -/
theorem perform_cases {e : Event} {s t : State} (h : perform e s = .next t) :
    (∃ image, e = .reset image ∧ image.length ≤ 3584 ∧ t = s.resetWith image) ∨
    (∃ keys rnd, e = .step keys rnd ∧ cpuStep (s.sampleInputs keys rnd) = .next t) ∨
    (∃ k, e = .keyEvent k ∧ t = s.keyEvent k) ∨ (e = .tick ∧ t = s.tick) ∨ (e = .hostRead ∧ t = s) := by
  cases e with
  | reset image =>
    by_cases hl : image.length ≤ 3584
    · rw [perform_reset hl] at h
      exact .inl ⟨image, rfl, hl, (Host.Outcome.next.inj h).symm⟩
    · rw [perform_reset_overlong hl] at h
      cases h
  | step keys rnd => exact .inr (.inl ⟨keys, rnd, rfl, h⟩)
  | keyEvent k => exact .inr (.inr (.inl ⟨k, rfl, (Host.Outcome.next.inj h).symm⟩))
  | tick => exact .inr (.inr (.inr (.inl ⟨rfl, (Host.Outcome.next.inj h).symm⟩)))
  | hostRead => exact .inr (.inr (.inr (.inr ⟨rfl, (Host.Outcome.next.inj h).symm⟩)))

/-- A step performs the event it takes. -/
theorem step_eq (s : State) : step s = perform s.takeEvent.1 s.takeEvent.2 := rfl

/-- A next event that is a Reset has an image that fits, unless the list scripts a longer one. -/
theorem State.takeEvent_image_fits {s : State} {image : List Byte} (h : s.takeEvent.1 = .reset image) :
    image.length ≤ 3584 ∨ ∃ rest, s.env.pending = .reset image :: rest := by
  cases hp : s.env.pending with
  | cons e rest =>
    rw [State.takeEvent_nonempty hp] at h
    exact .inr ⟨rest, by rw [show e = .reset image from h]⟩
  | nil =>
    cases hl : s.env.loading with
    | some writes =>
      rw [State.takeEvent_held hp hl] at h
      exact .inl (Event.reset.inj h ▸ Nat.le_of_eq (length_loadedImage writes))
    | none =>
      rw [State.takeEvent_empty hp hl] at h
      exact .inl (freeEvent_image_fits h)

/-! ### The signals (00_scope R11) -/

/-- `rst` at 1: a Reset with the bytes written since it rose. -/
theorem State.present_held {s : State} {g : Signals} (h : g.rst = true) :
    s.present g = { s with env := { s.env with
      pending := s.env.pending ++ [.reset (loadedImage (s.env.loading.getD [] ++ g.write))]
      loading := some (s.env.loading.getD [] ++ g.write) } } := by
  unfold State.present; rw [h]; rfl

/-- `rst` falls: the complete Reset. -/
theorem State.present_falls {s : State} {g : Signals} {writes : List (BitVec 12 × Byte)} (h : g.rst = false)
    (hl : s.env.loading = some writes) :
    s.present g = { s with env := { s.env with
      pending := s.env.pending ++ [.reset (loadedImage writes)], loading := none } } := by
  unfold State.present; rw [h, hl]; rfl

/-- `rst` at 0: the strobes. -/
theorem State.present_strobes {s : State} {g : Signals} (h : g.rst = false) (hl : s.env.loading = none) :
    s.present g = { s with env := { s.env with pending := s.env.pending ++ (g.edge none).events } } := by
  unfold State.present; rw [h, hl]

end Sys2Proof.Machine
end

