-- ==== Sys2Proof/Tests/Slice0.lean ====
section
/-!
SUPPORT. The model's own tests. Decoding: each instruction's word written out bit by bit from 30_encoding R90. Steps:
the vectors of 95_test_vectors (its section stands before each group). Witnesses: for every statement with hypotheses,
a state and operands that meet them, one per clause, at the clause's boundary.
-/
namespace Sys2Proof.Tests

open Sys2Proof.Machine

/-- The outcome is a next state with this property. -/
def nextIs (o : Host.Outcome State Fault Refusal) (p : State → Bool) : Bool :=
  match o with
  | .next t => p t
  | .fault _ => false
  | .refused _ => false

/-- The reset state with some registers set. -/
def withRegs (rs : List (Nibble × Byte)) : State := rs.foldl (fun s r => s.writeReg r.1 r.2) State.reset

/-- A state at `pc` with some bytes there and one Step scripted. -/
def poised (pc : Word) (bytes : List Byte) : State :=
  { (State.reset.setPc pc).storeBytes pc.toNat bytes with
    env := { keys := 0, rnd := 0, draws := 0, pending := [.step 0x0400 0xB7], loading := none } }

/-- An instant with every strobe and the load port's `ld_we` at 1, `rst` at 0. -/
def strobes : Signals :=
  { rst := false, ldWe := true, ldIndex := 0xDFF, ldData := 0xEE, step := true, keys := 0x0400, rnd := 0xB7,
    keyEvt := true, keyId := 7, tick := true }

/-- The fault latches a state shows. -/
def latched (t : State) (code : BitVec 3) (pc w : Word) : Bool :=
  decide (t.status = .halted) && t.fcode == code && t.fpc == pc && t.fword == w

/-! ### Well-formedness: an ill-formed term for each check -/

theorem test_wf_refuses_sys_cls_word : Instr.wf (.sys 0x0E0) = false := by decide
theorem test_wf_refuses_sys_ret_word : Instr.wf (.sys 0x0EE) = false := by decide
theorem test_wf_accepts_sys : Instr.wf (.sys 0x0E1) = true := by decide

/-! ### Decoding (R90; 95_test_vectors 2.1) -/

theorem test_decode_cls : decodeTableWord 16 0b0000_0000_1110_0000 = some (.cls) := by decide
theorem test_decode_ret : decodeTableWord 16 0b0000_0000_1110_1110 = some (.ret) := by decide
theorem test_decode_sys : decodeTableWord 16 0b0000_0001_0010_0011 = some (.sys 0x123) := by decide
theorem test_decode_jp : decodeTableWord 16 0b0001_1111_1111_1111 = some (.jp 0xFFF) := by decide
theorem test_decode_call : decodeTableWord 16 0b0010_1010_1011_1100 = some (.call 0xABC) := by decide
theorem test_decode_seImm : decodeTableWord 16 0b0011_1010_0111_1111 = some (.seImm 0xA 0x7F) := by decide
theorem test_decode_sneImm : decodeTableWord 16 0b0100_1111_0000_0000 = some (.sneImm 0xF 0x00) := by decide
theorem test_decode_seReg : decodeTableWord 16 0b0101_0001_0010_0111 = some (.seReg 1 2 7) := by decide
theorem test_decode_ldImm : decodeTableWord 16 0b0110_1010_0111_1111 = some (.ldImm 0xA 0x7F) := by decide
theorem test_decode_addImm : decodeTableWord 16 0b0111_0001_1111_1111 = some (.addImm 1 0xFF) := by decide
theorem test_decode_ldReg : decodeTableWord 16 0b1000_1010_1011_0000 = some (.ldReg 0xA 0xB) := by decide
theorem test_decode_orReg : decodeTableWord 16 0b1000_0001_0010_0001 = some (.orReg 1 2) := by decide
theorem test_decode_andReg : decodeTableWord 16 0b1000_0001_0010_0010 = some (.andReg 1 2) := by decide
theorem test_decode_xorReg : decodeTableWord 16 0b1000_0001_0010_0011 = some (.xorReg 1 2) := by decide
theorem test_decode_addReg : decodeTableWord 16 0b1000_0001_0010_0100 = some (.addReg 1 2) := by decide
theorem test_decode_sub : decodeTableWord 16 0b1000_0001_0010_0101 = some (.sub 1 2) := by decide
theorem test_decode_shr : decodeTableWord 16 0b1000_0001_0010_0110 = some (.shr 1 2) := by decide
theorem test_decode_subn : decodeTableWord 16 0b1000_0001_0010_0111 = some (.subn 1 2) := by decide
theorem test_decode_shl : decodeTableWord 16 0b1000_1010_1011_1110 = some (.shl 0xA 0xB) := by decide
theorem test_decode_sneReg : decodeTableWord 16 0b1001_1010_1011_1111 = some (.sneReg 0xA 0xB 0xF) := by decide
theorem test_decode_ldI : decodeTableWord 16 0b1010_0011_0000_0001 = some (.ldI 0x301) := by decide
theorem test_decode_jpV0 : decodeTableWord 16 0b1011_0001_0010_0011 = some (.jpV0 0x123) := by decide
theorem test_decode_rnd : decodeTableWord 16 0b1100_0101_1111_0000 = some (.rnd 5 0xF0) := by decide
theorem test_decode_drw : decodeTableWord 16 0b1101_0001_0010_1111 = some (.drw 1 2 15) := by decide
theorem test_decode_skp : decodeTableWord 16 0b1110_0011_1001_1110 = some (.skp 3) := by decide
theorem test_decode_sknp : decodeTableWord 16 0b1110_1111_1010_0001 = some (.sknp 0xF) := by decide
theorem test_decode_ldVxDt : decodeTableWord 16 0b1111_0010_0000_0111 = some (.ldVxDt 2) := by decide
theorem test_decode_ldVxK : decodeTableWord 16 0b1111_0101_0000_1010 = some (.ldVxK 5) := by decide
theorem test_decode_ldDtVx : decodeTableWord 16 0b1111_0110_0001_0101 = some (.ldDtVx 6) := by decide
theorem test_decode_ldStVx : decodeTableWord 16 0b1111_0111_0001_1000 = some (.ldStVx 7) := by decide
theorem test_decode_addIVx : decodeTableWord 16 0b1111_1000_0001_1110 = some (.addIVx 8) := by decide
theorem test_decode_ldFVx : decodeTableWord 16 0b1111_1001_0010_1001 = some (.ldFVx 9) := by decide
theorem test_decode_ldBVx : decodeTableWord 16 0b1111_1010_0011_0011 = some (.ldBVx 0xA) := by decide
theorem test_decode_ldMemVx : decodeTableWord 16 0b1111_1011_0101_0101 = some (.ldMemVx 0xB) := by decide
theorem test_decode_ldVxMem : decodeTableWord 16 0b1111_1111_0110_0101 = some (.ldVxMem 0xF) := by decide
theorem test_decode_refuses_8AB8 : decodeTableWord 16 0x8AB8 = none := by decide
theorem test_decode_refuses_8ABF : decodeTableWord 16 0x8ABF = none := by decide
theorem test_decode_refuses_E09F : decodeTableWord 16 0xE09F = none := by decide
theorem test_decode_refuses_F030 : decodeTableWord 16 0xF030 = none := by decide
theorem test_decode_sys_fatal : decodeBytes .fatal [0x01, 0x23] = .error (.sysFatal 0x123) := by decide
theorem test_decode_truncated : decodeBytes .nop [0x12] = .error .truncated := by decide
theorem test_encode_is_big_endian : encodeBytes (.jp 0x234) = [0x12, 0x34] := by decide


/-! ### Control transfer (95_test_vectors 2.2) -/

theorem test_sys_nop :
    nextIs (exec (.sys 0x123) State.reset) (fun t => t.pc == 0x202) = true := by decide
theorem test_sys_fatal :
    nextIs (exec (.sys 0x123) { State.reset with params := { Config.defaults with sysPolicy := .fatal } }) (fun t => latched t 1 0x200 0x0123) = true := by decide
theorem test_jp :
    nextIs (exec (.jp 0xABC) State.reset) (fun t => t.pc == 0xABC) = true := by decide
theorem test_call :
    nextIs (exec (.call 0x210) (State.reset.setPc 0x204)) (fun t => t.pc == 0x210 && t.sp == 1 && t.stk[0] == 0x206) = true := by decide
theorem test_call_overflow :
    nextIs (exec (.call 0x400) { State.reset.setPc 0x300 with sp := 16 }) (fun t => latched t 2 0x300 0x2400 && t.pc == 0x300 && t.sp == 16) = true := by decide
theorem test_ret :
    nextIs (exec .ret ((State.reset.push 0x206).setPc 0x210)) (fun t => t.pc == 0x206 && t.sp == 0 && t.stk[0] == 0x206) = true := by decide
theorem test_ret_underflow :
    nextIs (exec .ret (State.reset.setPc 0x210)) (fun t => latched t 3 0x210 0x00EE && t.pc == 0x210 && t.sp == 0) = true := by decide
theorem test_jpV0_not_reduced :
    nextIs (exec (.jpV0 0xFFF) (withRegs [(0, 0xFF)])) (fun t => t.pc == 0x10FE) = true := by decide
theorem test_jpV0_reads_v0 :
    nextIs (exec (.jpV0 0x300) (withRegs [(0, 0x01), (3, 0x80)])) (fun t => t.pc == 0x301) = true := by decide

/-! ### Skips (95_test_vectors 2.3) -/

theorem test_seImm_skips :
    nextIs (exec (.seImm 1 0x00) (State.reset.setPc 0x220)) (fun t => t.pc == 0x224) = true := by decide
theorem test_seImm_no_skip :
    nextIs (exec (.seImm 1 0x00) ((withRegs [(1, 4)]).setPc 0x220)) (fun t => t.pc == 0x222) = true := by decide
theorem test_sneImm_skips :
    nextIs (exec (.sneImm 2 0x11) ((withRegs [(2, 0x10)]).setPc 0x220)) (fun t => t.pc == 0x224) = true := by decide
theorem test_sneImm_no_skip :
    nextIs (exec (.sneImm 2 0x10) ((withRegs [(2, 0x10)]).setPc 0x220)) (fun t => t.pc == 0x222) = true := by decide
theorem test_seReg_skips :
    nextIs (exec (.seReg 3 4 0) ((withRegs [(3, 7), (4, 7)]).setPc 0x220)) (fun t => t.pc == 0x224) = true := by decide
theorem test_seReg_no_skip :
    nextIs (exec (.seReg 3 4 0) ((withRegs [(3, 7), (4, 8)]).setPc 0x220)) (fun t => t.pc == 0x222) = true := by decide
theorem test_sneReg_skips :
    nextIs (exec (.sneReg 3 4 0) ((withRegs [(3, 7), (4, 8)]).setPc 0x220)) (fun t => t.pc == 0x224) = true := by decide
theorem test_sneReg_same_register :
    nextIs (exec (.sneReg 3 3 0) ((withRegs [(3, 7)]).setPc 0x220)) (fun t => t.pc == 0x222) = true := by decide
theorem test_skp_key_down :
    nextIs (exec (.skp 5) (((withRegs [(5, 0x0A)]).setPc 0x220).sampleInputs 0x0400 0)) (fun t => t.pc == 0x224) = true := by decide
theorem test_skp_index_fault :
    nextIs (exec (.skp 5) ((withRegs [(5, 0x10)]).setPc 0x220)) (fun t => latched t 6 0x220 0xE59E && t.pc == 0x220) = true := by decide
theorem test_sknp_key_down :
    nextIs (exec (.sknp 5) (((withRegs [(5, 0x0A)]).setPc 0x220).sampleInputs 0x0400 0)) (fun t => t.pc == 0x222) = true := by decide
theorem test_sknp_index_fault :
    nextIs (exec (.sknp 5) ((withRegs [(5, 0xFF)]).setPc 0x220)) (fun t => latched t 6 0x220 0xE5A1 && t.pc == 0x220) = true := by decide

/-! ### Immediate loads and random (95_test_vectors 2.4) -/

theorem test_ldImm :
    nextIs (exec (.ldImm 0xA 0x7F) State.reset) (fun t => t.reg 10 == 0x7F && t.pc == 0x202) = true := by decide
theorem test_addImm_no_carry_flag :
    nextIs (exec (.addImm 1 0x01) (withRegs [(1, 0xFF)])) (fun t => t.reg 1 == 0 && t.reg 15 == 0) = true := by decide
theorem test_addImm_to_vf :
    nextIs (exec (.addImm 0xF 0x03) (withRegs [(15, 0xFE)])) (fun t => t.reg 15 == 1) = true := by decide
theorem test_ldI_clears_top_bits :
    nextIs (exec (.ldI 0xFFF) (State.reset.setI 0xFFFF)) (fun t => t.i == 0x0FFF) = true := by decide
theorem test_rnd_masks :
    nextIs (exec (.rnd 3 0x0F) (State.reset.sampleInputs 0 0xB7)) (fun t => t.reg 3 == 0x07) = true := by decide

/-! ### ALU (95_test_vectors 2.5) -/

theorem test_ldReg :
    nextIs (exec (.ldReg 1 2) (withRegs [(2, 0x3C)])) (fun t => t.reg 1 == 0x3C && t.reg 15 == 0) = true := by decide
theorem test_or :
    nextIs (exec (.orReg 1 2) (withRegs [(1, 0xF0), (2, 0x0F), (15, 9)])) (fun t => t.reg 1 == 0xFF && t.reg 15 == 9) = true := by decide
theorem test_and :
    nextIs (exec (.andReg 1 2) (withRegs [(1, 0xF0), (2, 0x3C), (15, 9)])) (fun t => t.reg 1 == 0x30 && t.reg 15 == 9) = true := by decide
theorem test_xor :
    nextIs (exec (.xorReg 1 2) (withRegs [(1, 0xF0), (2, 0x3C), (15, 9)])) (fun t => t.reg 1 == 0xCC && t.reg 15 == 9) = true := by decide
theorem test_add_same_register :
    nextIs (exec (.addReg 1 1) (withRegs [(1, 0x90)])) (fun t => t.reg 1 == 0x20 && t.reg 15 == 1) = true := by decide
theorem test_add_to_vf_keeps_flag :
    nextIs (exec (.addReg 0xF 2) (withRegs [(15, 0xF0), (2, 0x20)])) (fun t => t.reg 15 == 1) = true := by decide
theorem test_sub_borrow :
    nextIs (exec (.sub 1 2) (withRegs [(1, 0x10), (2, 0x20)])) (fun t => t.reg 1 == 0xF0 && t.reg 15 == 0) = true := by decide
theorem test_sub_equal :
    nextIs (exec (.sub 1 1) (withRegs [(1, 0x33)])) (fun t => t.reg 1 == 0 && t.reg 15 == 1) = true := by decide
theorem test_subn_borrow :
    nextIs (exec (.subn 1 2) (withRegs [(1, 0x20), (2, 0x10)])) (fun t => t.reg 1 == 0xF0 && t.reg 15 == 0) = true := by decide
theorem test_subn :
    nextIs (exec (.subn 1 2) (withRegs [(1, 0x10), (2, 0x20)])) (fun t => t.reg 1 == 0x10 && t.reg 15 == 1) = true := by decide
theorem test_shr_vx :
    nextIs (exec (.shr 1 2) (withRegs [(1, 0x05), (2, 0xAA)])) (fun t => t.reg 1 == 0x02 && t.reg 15 == 1 && t.reg 2 == 0xAA) = true := by decide
theorem test_shr_vy :
    nextIs (exec (.shr 1 2) { withRegs [(1, 0x05), (2, 0xAA)] with params := { Config.defaults with shiftSrc := .vy } }) (fun t => t.reg 1 == 0x55 && t.reg 15 == 0 && t.reg 2 == 0xAA) = true := by decide
theorem test_shl_vx :
    nextIs (exec (.shl 1 2) (withRegs [(1, 0x81), (2, 0x40)])) (fun t => t.reg 1 == 0x02 && t.reg 15 == 1) = true := by decide
theorem test_shl_vy :
    nextIs (exec (.shl 1 2) { withRegs [(1, 0x81), (2, 0x40)] with params := { Config.defaults with shiftSrc := .vy } }) (fun t => t.reg 1 == 0x80 && t.reg 15 == 0) = true := by decide

/-! ### Display (95_test_vectors 2.6) -/

theorem test_cls :
    nextIs (exec .cls { State.reset with d := Vector.replicate 32 (Vector.replicate 64 true) }) (fun t => !t.pixel 0 0 && !t.pixel 63 31 && t.reg 15 == 0) = true := by decide
theorem test_drw_wraps :
    nextIs (exec (.drw 1 2 1) (((withRegs [(1, 60), (2, 30)]).setI 0x300).storeBytes 0x300 [0xFF])) (fun t => t.pixel 60 30 && t.pixel 63 30 && t.pixel 0 30 && t.pixel 3 30 && !t.pixel 4 30 && !t.pixel 59 30 && t.reg 15 == 0 && t.i == 0x300) = true := by decide
theorem test_drw_collides :
    nextIs (exec (.drw 1 2 1) { ((State.reset.setI 0x300).storeBytes 0x300 [0xC0]) with d := State.reset.d.set 0 (State.reset.d[0].set 0 true) }) (fun t => !t.pixel 0 0 && t.pixel 1 0 && t.reg 15 == 1) = true := by decide

/-! ### Timers and the key wait (95_test_vectors 2.7) -/

theorem test_ldVxDt :
    nextIs (exec (.ldVxDt 1) (State.reset.setDt 5)) (fun t => t.reg 1 == 5 && t.dt == 5) = true := by decide
theorem test_ldDtVx :
    nextIs (exec (.ldDtVx 0) (withRegs [(0, 7)])) (fun t => t.dt == 7) = true := by decide
theorem test_ldStVx :
    nextIs (exec (.ldStVx 3) (withRegs [(3, 0x1E)])) (fun t => t.st == 0x1E && t.soundActive) = true := by decide
theorem test_ldVxK_waits :
    nextIs (exec (.ldVxK 0) (State.reset.sampleInputs 0xFFFF 0)) (fun t => decide (t.status = .awaitKey) && t.kx == 0 && t.pc == 0x200) = true := by decide
theorem test_keyEvent_completes :
    nextIs (perform (.keyEvent 7) (State.reset.beginWait 0)) (fun t => t.reg 0 == 7 && t.pc == 0x202 && decide (t.status = .running)) = true := by decide
theorem test_keyEvent_dropped :
    nextIs (perform (.keyEvent 7) State.reset) (fun t => t.reg 0 == 0 && t.pc == 0x200) = true := by decide
theorem test_status_output :
    State.reset.statusOut = 0 ∧ (State.reset.beginWait 0).statusOut = 1 ∧
    (State.reset.raise .decodeError 0).statusOut = 2 := by decide
theorem test_tick :
    nextIs (perform .tick ((State.reset.setDt 2).setSt 1)) (fun t => t.dt == 1 && t.st == 0 && !t.soundActive) = true := by decide
theorem test_tick_floors_at_zero :
    nextIs (perform .tick State.reset) (fun t => t.dt == 0 && t.st == 0) = true := by decide

/-! ### Address register and memory transfer (95_test_vectors 2.8) -/

theorem test_addIVx_passes_0FFF :
    nextIs (exec (.addIVx 2) ((withRegs [(2, 5)]).setI 0x0FFE)) (fun t => t.i == 0x1003 && t.reg 15 == 0) = true := by decide
theorem test_addIVx_wraps :
    nextIs (exec (.addIVx 2) ((withRegs [(2, 0xFF)]).setI 0xFF80)) (fun t => t.i == 0x007F) = true := by decide
theorem test_ldFVx_font_050 :
    nextIs (exec (.ldFVx 0) { withRegs [(0, 5)] with params := { Config.defaults with fontBase := 0x050 } }) (fun t => t.i == 0x0069) = true := by decide
theorem test_ldFVx_low_nibble :
    nextIs (exec (.ldFVx 0) (withRegs [(0, 0x1A)])) (fun t => t.i == 50) = true := by decide
theorem test_ldBVx :
    nextIs (exec (.ldBVx 0) ((withRegs [(0, 156)]).setI 0x300)) (fun t => t.readByte 0x300 == 1 && t.readByte 0x301 == 5 && t.readByte 0x302 == 6) = true := by decide
theorem test_ldBVx_fault :
    nextIs (exec (.ldBVx 0) (State.reset.setI 0xFFE)) (fun t => latched t 5 0x200 0xF033 && t.readByte 0xFFE == 0) = true := by decide
theorem test_ldMemVx :
    nextIs (exec (.ldMemVx 3) ((withRegs [(0, 0x11), (1, 0x22), (2, 0x33), (3, 0x44), (4, 0x55)]).setI 0x400)) (fun t => t.readByte 0x400 == 0x11 && t.readByte 0x403 == 0x44 && t.readByte 0x404 == 0 && t.i == 0x400) = true := by decide
theorem test_ldMemVx_no_wrap :
    nextIs (exec (.ldMemVx 1) (State.reset.setI 0xFFFF)) (fun t => latched t 5 0x200 0xF155) = true := by decide
theorem test_ldVxMem :
    nextIs (exec (.ldVxMem 2) (((withRegs [(3, 0x55)]).setI 0x400).storeBytes 0x400 [9, 8, 7])) (fun t => t.reg 0 == 9 && t.reg 1 == 8 && t.reg 2 == 7 && t.reg 3 == 0x55 && t.i == 0x400) = true := by decide
theorem test_ldVxMem_fault :
    nextIs (exec (.ldVxMem 0) (State.reset.setI 0x1000)) (fun t => latched t 5 0x200 0xF065) = true := by decide

/-! ### Fetch, faults and reset (95_test_vectors 2.9) -/

theorem test_step_fetches_at_FFE :
    nextIs (step (poised 0xFFE [0x12, 0x00])) (fun t => t.pc == 0x200 && t.env.pending == []) = true := by decide
theorem test_step_fetch_fault :
    nextIs (step (poised 0xFFF [])) (fun t => latched t 5 0xFFF 0x0000) = true := by decide
theorem test_step_decode_fault :
    nextIs (step (poised 0x200 [0x81, 0x28])) (fun t => latched t 1 0x200 0x8128 && t.pc == 0x200) = true := by decide
theorem test_step_samples_rnd :
    nextIs (step (poised 0x200 [0xC3, 0xFF])) (fun t => t.reg 3 == 0xB7) = true := by decide
theorem test_step_runs_the_placed_word :
    nextIs (step (State.reset.withFetchWord 16 0x6A7F)) (fun t => t.reg 10 == 0x7F && t.pc == 0x202) = true := by decide
theorem test_step_of_empty_memory :
    nextIs (perform (.step 0 0) State.reset) (fun t => t.pc == 0x202) = true := by decide
theorem test_reset_event :
    nextIs (perform (.reset [0x12, 0x00]) ((withRegs [(1, 9)]).raise .decodeError 0x8128)) (fun t => t.reg 1 == 0 && t.pc == 0x200 && t.fcode == 0 && decide (t.status = .running) && t.readByte 0x200 == 0x12 && t.readByte 0x202 == 0 && t.readByte 0 == 0xF0 && t.readByte 1 == 0x90 && t.readByte 0xFFF == 0) = true := by decide

/-- The bytes of R57's table, glyph by glyph, where a reset puts them. -/
theorem test_reset_font_table :
    (List.range 16).map (fun g => State.reset.readBytes (5 * g) 5) =
      [[0xF0, 0x90, 0x90, 0x90, 0xF0], [0x20, 0x60, 0x20, 0x20, 0x70], [0xF0, 0x10, 0xF0, 0x80, 0xF0], [0xF0, 0x10, 0xF0, 0x10, 0xF0],
       [0x90, 0x90, 0xF0, 0x10, 0x10], [0xF0, 0x80, 0xF0, 0x10, 0xF0], [0xF0, 0x80, 0xF0, 0x90, 0xF0], [0xF0, 0x10, 0x20, 0x40, 0x40],
       [0xF0, 0x90, 0xF0, 0x90, 0xF0], [0xF0, 0x90, 0xF0, 0x10, 0xF0], [0xF0, 0x90, 0xF0, 0x90, 0x90], [0xE0, 0x90, 0xE0, 0x90, 0xE0],
       [0xF0, 0x80, 0x80, 0x80, 0xF0], [0xE0, 0x90, 0x90, 0x90, 0xE0], [0xF0, 0x80, 0xF0, 0x80, 0xF0], [0xF0, 0x80, 0xF0, 0x80, 0x80]] := by decide

/-! ### Witnesses: every statement's hypotheses can be met -/

theorem witness_DecodeOfEncodeIsTheInstruction :
    (∃ i : Instr, i.wf = true ∧ ∀ nnn, i ≠ .sys nnn) ∧ (∃ nnn : Addr, (Instr.sys nnn).wf = true) :=
  ⟨⟨.cls, rfl, fun _ h => by cases h⟩, ⟨0x0E1, rfl⟩⟩

theorem witness_EncodeOfDecodedWordIsTheWord : decode .fatal 0xFF65#16 = .ok (.ldVxMem 15) := by decide

theorem witness_IllegalWords_each_row :
    decode .nop 0x8008#16 = .error (.aluSelector 8) ∧ decode .nop 0xE000#16 = .error (.keySelector 0) ∧
    decode .nop 0xF066#16 = .error (.miscSelector 0x66) ∧ decode .fatal 0x0000#16 = .error (.sysFatal 0) := by decide

theorem witness_DecodesToTheFirstMatchingRow :
    decode .nop 0x00E0#16 = .ok .cls ∧ decode .nop 0xFFFF#16 = .error (.miscSelector 0xFF) := by decide

theorem witness_StepRunsTheDecodedInstruction :
    (∃ s : State, s.status = .running ∧ s.pc.toNat + 1 = 4095 ∧
      decodeBytes s.params.sysPolicy [s.readByte s.pc.toNat, s.readByte (s.pc.toNat + 1)] = .ok (.jp 0x200, []) ∧
      s.env.pending = [.step 0x0400 0xB7]) ∧
    (∃ s u : State, s.status = .running ∧ s.pc.toNat + 1 = 4095 ∧
      decodeBytes s.params.sysPolicy [s.readByte s.pc.toNat, s.readByte (s.pc.toNat + 1)] = .ok (.jp 0x200, []) ∧
      s.takeEvent = (.step 0x0400 0xB7, u)) :=
  ⟨⟨poised 0xFFE [0x12, 0x00], by decide⟩, ⟨poised 0xFFE [0x12, 0x00], _, by decide, by decide, by decide, rfl⟩⟩

theorem witness_StepPerformsTheNextEvent :
    (∃ s : State, s.env.pending = .step 0x0400 0xB7 :: []) ∧
    (∃ s : State, s.env.pending = [] ∧ s.env.loading = some [(0, 0x12)]) ∧
    (State.reset.env.pending = [] ∧ State.reset.env.loading = none) :=
  ⟨⟨poised 0x200 [], rfl⟩,
    ⟨{ State.reset with env := { State.reset.env with loading := some [(0, 0x12)] } }, rfl, rfl⟩, rfl, rfl⟩

theorem witness_StepEventFetchesDecodesExecutes :
    (∃ s : State, s.status = .halted) ∧ (∃ s : State, s.status = .awaitKey) ∧
    (∃ s : State, s.status = .running ∧ s.pc.toNat + 1 = 4096) ∧
    (∃ s : State, s.status = .running ∧ s.pc.toNat + 1 = 4095 ∧
      (0x8128 : Nat) = 256 * (s.readByte s.pc.toNat).toNat + (s.readByte (s.pc.toNat + 1)).toNat ∧
      decode s.params.sysPolicy 0x8128#16 = .error (.aluSelector 8)) ∧
    (∃ s : State, s.status = .running ∧ s.pc.toNat + 1 = 4095 ∧
      (0x1200 : Nat) = 256 * (s.readByte s.pc.toNat).toNat + (s.readByte (s.pc.toNat + 1)).toNat ∧
      decode s.params.sysPolicy 0x1200#16 = .ok (.jp 0x200)) :=
  ⟨⟨State.reset.raise .decodeError 0, rfl⟩, ⟨State.reset.beginWait 0, rfl⟩, ⟨State.reset.setPc 0xFFF, by decide⟩,
    ⟨poised 0xFFE [0x81, 0x28], by decide⟩, ⟨poised 0xFFE [0x12, 0x00], by decide⟩⟩

theorem witness_FetchBeyondMemoryFaults : ∃ s : State, s.status = .running ∧ s.pc.toNat = 4095 :=
  ⟨State.reset.setPc 0xFFF, by decide⟩

theorem witness_HaltedMachineIsFrozenUntilReset :
    (∃ s : State, s.status = .halted) ∧ (List.replicate 3584 (0 : Byte)).length ≤ 3584 :=
  ⟨⟨State.reset.raise .stackOverflow 0x2200, rfl⟩, by rw [List.length_replicate]⟩

theorem witness_ResetEventBuildsMemoryInLayers :
    (List.replicate 3584 (0 : Byte)).length ≤ 3584 ∧
    (∃ s : State, s.params.fontBase.val = 0x050 ∧ (0x04F : Nat) < s.params.fontBase.val ∧
      s.params.fontBase.val + 80 ≤ 0x0A0 ∧ (0x0A0 : Nat) < 0x200) :=
  ⟨by rw [List.length_replicate], ⟨{ State.reset with params := { Config.defaults with fontBase := 0x050 } }, by decide⟩⟩

theorem witness_OverlongImageIsRefused : 3584 < (List.replicate 3585 (0 : Byte)).length := by
  rw [List.length_replicate]; decide

theorem witness_SysIsNopOrDecodeError :
    (∃ s : State, s.params.sysPolicy = .nop) ∧ (∃ s : State, s.params.sysPolicy = .fatal) :=
  ⟨⟨State.reset, rfl⟩, ⟨{ State.reset with params := { Config.defaults with sysPolicy := .fatal } }, rfl⟩⟩

theorem witness_CallPushesTheNextAddress :
    (∃ s : State, s.sp.val = 16) ∧ (∃ s : State, s.sp.val = 15) ∧ (∃ s : State, s.sp.val = 0) :=
  ⟨⟨{ State.reset with sp := 16 }, rfl⟩, ⟨{ State.reset with sp := 15 }, rfl⟩, ⟨State.reset, rfl⟩⟩

theorem witness_ReturnPopsTheStack :
    (∃ s : State, s.sp.val = 0) ∧ (∃ s : State, s.sp.val = (0 : Fin 16).val + 1) ∧
    (∃ s : State, s.sp.val = (15 : Fin 16).val + 1) :=
  ⟨⟨State.reset, rfl⟩, ⟨{ State.reset with sp := 1 }, rfl⟩, ⟨{ State.reset with sp := 16 }, rfl⟩⟩

theorem witness_CallThenReturnResumesAfterTheCall :
    ∃ s t u : State, s.sp.val ≠ 16 ∧ exec (.call 0x210) s = .next t ∧ u.sp = t.sp ∧ u.stk = t.stk :=
  ⟨State.reset, _, _, by decide, rfl, rfl, rfl⟩

theorem witness_SkipsOnAKeyOrFaultsOnItsIndex :
    15 < ((withRegs [(5, 0x10)]).reg 5).toNat ∧ ((withRegs [(5, 0x0F)]).reg 5).toNat ≤ 15 := by decide

theorem witness_ShiftsWriteResultThenShiftedOutBit :
    (∃ (s : State) (b : Byte), s.params.shiftSrc = .vx ∧ b = s.reg 1) ∧
    (∃ (s : State) (b : Byte), s.params.shiftSrc = .vy ∧ b = s.reg 2) :=
  ⟨⟨State.reset, _, rfl, rfl⟩,
    ⟨{ State.reset with params := { Config.defaults with shiftSrc := .vy } }, _, rfl, rfl⟩⟩

/-- `x ≠ 15` in the statements about results beside a flag: the highest register it admits. -/
theorem witness_flag_results_next_to_vf : (14 : Nibble) ≠ 15 := by decide

theorem witness_DrawXorsTheWrappedSprite :
    (∃ s : State, 0 < (3 : Nibble).toNat ∧ 4095 < s.i.toNat + (3 : Nibble).toNat - 1) ∧
    (∃ s : State, s.i.toNat = 0xFFD ∧ ¬ (0 < (3 : Nibble).toNat ∧ 4095 < s.i.toNat + (3 : Nibble).toNat - 1)) ∧
    (∃ s : State, s.i.toNat = 0x1000 ∧ ¬ (0 < (0 : Nibble).toNat ∧ 4095 < s.i.toNat + (0 : Nibble).toNat - 1)) :=
  ⟨⟨State.reset.setI 0xFFE, by decide⟩, ⟨State.reset.setI 0xFFD, by decide⟩, ⟨State.reset.setI 0x1000, by decide⟩⟩

/-- A pixel under a 1 bit (the font's first byte 0xF0 at the origin), and one under none. -/
theorem witness_DrawXorsTheWrappedSprite_masks :
    SpriteBit State.reset 0 0 1 0 0 ∧ ¬ SpriteBit State.reset 0 0 0 0 0 :=
  ⟨⟨0, 0, by decide, by decide, by decide, by decide, by decide⟩, fun ⟨_, _, h, _⟩ => absurd h (Nat.not_lt_zero _)⟩

/-- An on pixel under a 1 bit (a collision), and a draw with none. -/
theorem witness_DrawXorsTheWrappedSprite_collisions :
    (∃ s : State, SpriteBit s 0 0 1 0 0 ∧ s.pixel 0 0 = true) ∧
    (¬ ∃ col row, SpriteBit State.reset 0 0 0 col row ∧ State.reset.pixel col row = true) :=
  ⟨⟨{ State.reset with d := State.reset.d.set 0 (State.reset.d[0].set 0 true) },
      ⟨0, 0, by decide, by decide, by decide, by decide, by decide⟩, by decide⟩,
    fun ⟨_, _, ⟨_, _, h, _⟩, _⟩ => absurd h (Nat.not_lt_zero _)⟩

/-- Both draw-twice statements: a draw of the font's first byte that turns a pixel on. -/
theorem witness_SecondIdenticalDraw :
    ∃ s t : State, ¬ (0 < (1 : Nibble).toNat ∧ 4095 < s.i.toNat + (1 : Nibble).toNat - 1) ∧
      exec (.drw 0 0 1) s = .next t ∧ t.reg 0 = s.reg 0 ∧ SpriteBit s 0 0 1 0 0 ∧
      s.pixel 0 0 = false ∧ t.pixel 0 0 = true :=
  ⟨State.reset, _, by decide, rfl, by decide, ⟨0, 0, by decide, by decide, by decide, by decide, by decide⟩,
    by decide, by decide⟩

theorem witness_KeyEventCompletesTheWaitOrIsDropped :
    (∃ s : State, s.status = .awaitKey ∧ s.kx = 15) ∧ (∃ s : State, s.status ≠ .awaitKey) :=
  ⟨⟨State.reset.beginWait 15, rfl, rfl⟩, ⟨State.reset, by decide⟩⟩

theorem witness_TickCountsBothTimersDown :
    (∃ s : State, s.status = .halted) ∧ (∃ s : State, s.status ≠ .halted ∧ s.dt.toNat > 0 ∧ s.st.toNat = 0) ∧
    (∃ s : State, s.status ≠ .halted ∧ s.dt.toNat = 0 ∧ s.st.toNat > 0) :=
  ⟨⟨State.reset.raise .decodeError 0, rfl⟩, ⟨State.reset.setDt 1, by decide⟩, ⟨State.reset.setSt 255, by decide⟩⟩

theorem witness_TimersReachZeroAfterAsManyTicks : ∃ s : State, s.status ≠ .halted ∧ s.dt = 0xFF :=
  ⟨State.reset.setDt 0xFF, by decide⟩

theorem witness_SoundIsActiveWhileItsTimerRuns : ∃ s : State, s.status ≠ .halted ∧ s.st = 1 :=
  ⟨State.reset.setSt 1, by decide⟩

theorem witness_DecimalDigitsAreStoredAtI :
    4095 < (State.reset.setI 0xFFE).i.toNat + 2 ∧ (State.reset.setI 0xFFD).i.toNat + 2 ≤ 4095 ∧
    Memory.wf (State.reset.setI 0xFFD).params (State.reset.setI 0xFFD).mem = true := by decide

/-- The dump, the load, and the load after a dump. -/
theorem witness_RegisterDumpAndLoad :
    4095 < (State.reset.setI 0xFF1).i.toNat + (15 : Nibble).toNat ∧
    (State.reset.setI 0xFF0).i.toNat + (15 : Nibble).toNat ≤ 4095 ∧
    Memory.wf (State.reset.setI 0xFF0).params (State.reset.setI 0xFF0).mem = true := by decide

theorem witness_LoadAfterDumpRestoresTheRegisters :
    ∃ s t u : State, Memory.wf s.params s.mem = true ∧ s.i.toNat + (15 : Nibble).toNat ≤ 4095 ∧
      exec (.ldMemVx 15) s = .next t ∧ (∀ a, u.readByte a = t.readByte a) ∧ u.i = s.i :=
  ⟨State.reset.setI 0xFF0, _, _, by decide, by decide, rfl, fun _ => rfl, rfl⟩

theorem witness_InstructionsFaultExactlyByTheTable :
    (∃ s : State, ¬ s.Failed ∧ faultOf .ret s = some .stackUnderflow) ∧
    (∃ s : State, ¬ s.Failed ∧ faultOf .ret s = none) :=
  ⟨⟨State.reset, by unfold State.Failed; decide, rfl⟩,
    ⟨{ State.reset with sp := 1 }, by unfold State.Failed; decide, rfl⟩⟩

theorem witness_PcFollowsItsTable :
    (∃ s t : State, s.pc.toNat = 4094 ∧ faultOf .cls s = none ∧ exec .cls s = .next t) ∧
    (∃ s t : State, s.pc.toNat = 4094 ∧ faultOf .ret s ≠ none ∧ exec .ret s = .next t) ∧
    (∃ s : State, s.pc.toNat = 4094 ∧ s.status = .awaitKey) :=
  ⟨⟨State.reset.setPc 0xFFE, _, by decide, rfl, rfl⟩, ⟨State.reset.setPc 0xFFE, _, by decide, by decide, rfl⟩,
    ⟨(State.reset.setPc 0xFFE).beginWait 0, by decide⟩⟩

/-- The write table and the flag table. -/
theorem witness_InstructionsWriteOnlyTheirRow :
    ∃ t : State, faultOf (.addReg 1 2) State.reset = none ∧ exec (.addReg 1 2) State.reset = .next t ∧
      (15 : Nibble) ∈ writtenRegs (.addReg 1 2) ∧ (15 : Nibble) ∉ writtenRegs (.ldVxMem 14) :=
  ⟨_, rfl, rfl, by decide, by decide⟩

/-- Its clauses about Memory and the stack, at the end of Memory and next to the pushed entry. -/
theorem witness_InstructionsWriteOnlyTheirRow_parts :
    (∃ t : State, faultOf (.ldBVx 0) (State.reset.setI 0xFFD) = none ∧
      exec (.ldBVx 0) (State.reset.setI 0xFFD) = .next t ∧ 0xFFC < (State.reset.setI 0xFFD).i.toNat) ∧
    (∃ t : State, faultOf (.ldMemVx 15) (State.reset.setI 0xFF0) = none ∧
      exec (.ldMemVx 15) (State.reset.setI 0xFF0) = .next t ∧
      (State.reset.setI 0xFF0).i.toNat + (15 : Nibble).toNat < 0x1000) ∧
    (∃ s t : State, s.sp.val = 1 ∧ faultOf .ret s = none ∧ exec .ret s = .next t) ∧
    (∃ s t : State, s.sp.val = 15 ∧ faultOf (.call 0x210) s = none ∧ exec (.call 0x210) s = .next t ∧
      (14 : Fin 16).val ≠ s.sp.val) :=
  ⟨⟨_, by decide, rfl, by decide⟩, ⟨_, by decide, rfl, by decide⟩,
    ⟨{ State.reset with sp := 1 }, _, rfl, rfl, rfl⟩, ⟨{ State.reset with sp := 15 }, _, rfl, rfl, rfl, by decide⟩⟩

theorem witness_InputsAreReadOnlyByTheirInstructions :
    ∃ t : State, exec (.ldReg 1 2) (State.reset.sampleInputs 1 2) = .next t ∧
      (∀ x, Instr.ldReg 1 2 ≠ .skp x) ∧ (∀ x, Instr.ldReg 1 2 ≠ .sknp x) ∧ (∀ x nn, Instr.ldReg 1 2 ≠ .rnd x nn) :=
  ⟨_, rfl, by simp, by simp, by simp⟩

theorem witness_ParametersNeverChange : ∃ s t : State, step s = .next t := ⟨poised 0x200 [0x12, 0x00], _, rfl⟩

theorem witness_EveryStepKeepsTheInvariant : ∃ s t : State, s.Inv ∧ step s = .next t :=
  ⟨{ State.reset with env := { keys := 0, rnd := 0, draws := 0, pending := [.tick], loading := none } }, _,
    ⟨rfl, by decide, by decide, fun _ => by decide, by decide, by decide, fun h => by cases h⟩, rfl⟩

theorem witness_ReachableStatesObeyTheStatedBounds :
    (∃ s : State, Reachable s) ∧
    (∃ s : State, s.status = .running) ∧ (∃ s : State, s.status = .awaitKey) :=
  ⟨⟨_, .reset Config.defaults State.reset.env⟩, ⟨State.reset, rfl⟩, ⟨State.reset.beginWait 0, rfl⟩⟩

/-- A halted state is reached, with an event to come that is no Reset: RET at 0x200 with the stack empty
(95_test_vectors P4a), then a Tick. -/
theorem witness_Reachable_halted :
    ∃ s : State, Reachable s ∧ s.status = .halted ∧ ∀ image, s.takeEvent.1 ≠ .reset image :=
  ⟨_, .event (.event (.reset Config.defaults
      { keys := 0, rnd := 0, draws := 0, pending := [.reset [0x00, 0xEE], .step 0 0, .tick], loading := none }) rfl) rfl,
    by decide, fun _ h => by cases h⟩

theorem witness_CoincidentEventsComeInTheStatedOrder :
    (∃ (e : Edge) (writes : _), e.reset = some writes ∧ e.tick = true) ∧
    (∃ e : Edge, e.reset = none ∧ e.step = some (0, 0) ∧ e.keyEvt = some 7 ∧ e.tick = true ∧
      e.events = [.step 0 0, .keyEvent 7, .tick]) :=
  ⟨⟨{ reset := some [], step := none, keyEvt := none, tick := true }, [], rfl, rfl⟩,
    ⟨{ reset := none, step := some (0, 0), keyEvt := some 7, tick := true }, by decide⟩⟩

theorem witness_CoincidentEventsComeInTheStatedOrder_signals :
    strobes.rst = false ∧ State.reset.env.loading = none ∧ strobes.step = true ∧ strobes.keyEvt = true ∧
      strobes.tick = true := by decide

/-- The load port is not honoured while `rst` is 0. -/
theorem test_present_strobes :
    (State.reset.present strobes).env.pending = [.step 0x0400 0xB7, .keyEvent 7, .tick] ∧
    (State.reset.present strobes).env.loading = none := by decide

/-- While `rst` is 1 the port's write is kept and no strobe is an event. -/
theorem test_present_held :
    (State.reset.present { strobes with rst := true }).env.pending = [.reset (loadedImage [(0xDFF, 0xEE)])] ∧
    (State.reset.present { strobes with rst := true }).env.loading = some [(0xDFF, 0xEE)] := ⟨rfl, rfl⟩

theorem witness_LoadPortBytesStandFromLoadBase_signals :
    State.reset.env.loading = none ∧ [{ strobes with rst := true }] ≠ [] ∧
      (∀ g ∈ [{ strobes with rst := true }], g.rst = true) ∧ strobes.rst = false := by decide

theorem witness_LoadPortBytesStandFromLoadBase :
    ∃ (before after : List (BitVec 12 × Byte)) (index : BitVec 12) (data : Byte),
      [(0, 1), (0xDFF, 2), (0xDFF, 3)] = before ++ (index, data) :: after ∧ index.toNat = 3583 ∧
        (∀ w ∈ after, w.1 ≠ index) ∧ (∀ w ∈ before ++ (index, data) :: after, w.1.toNat ≠ 3582) :=
  ⟨[(0, 1), (0xDFF, 2)], [], 0xDFF, 3, rfl, by decide, by simp, by simp⟩

end Sys2Proof.Tests
end

section
/-!
SUPPORT. What the proofs of the scope's statements (00_scope) rest on and the laws of the model do not say already: the
parameters along each event, the sound timer under a tick, the load port's image as Memory shows it after its Reset, the
order of an instant's events, and a run of instants with `rst` at 1.
-/
namespace Sys2Proof.Machine

/-! ### The parameters -/

/-- Both branches of an instruction that may fault keep the parameters, so it does. -/
theorem params_of_next_ite {c : Prop} [Decidable c] {s t faulted done : State}
    (h : (if c then Host.Outcome.next faulted else .next done : Host.Outcome State Fault Refusal) = .next t)
    (hfaulted : faulted.params = s.params) (hdone : done.params = s.params) : t.params = s.params := by
  split at h <;> cases h
  · exact hfaulted
  · exact hdone

theorem execSys_params {nnn : Addr} {s t : State} (h : execSys nnn s = .next t) : t.params = s.params := by
  unfold execSys at h
  cases h
  split <;> rfl

/-- No instruction writes the parameters: SYS looks at its policy, eight instructions may fault, and the others are one
named update after another. -/
theorem exec_params {i : Instr} {s t : State} (h : exec i s = .next t) : t.params = s.params := by
  cases i with
  | sys => exact execSys_params h
  | ret | call | drw | skp | sknp | ldBVx | ldMemVx | ldVxMem => exact params_of_next_ite h rfl rfl
  | cls | jp | jpV0 | seImm | sneImm | seReg | sneReg | ldImm | addImm | ldReg | orReg | andReg | xorReg | addReg | sub
  | shr | subn | shl | ldI | rnd | ldVxDt | ldVxK | ldDtVx | ldStVx | addIVx | ldFVx => cases h; rfl

theorem cpuStep_params {s t : State} (h : cpuStep s = .next t) : t.params = s.params := by
  obtain ⟨-, hc⟩ | ⟨-, -, hc⟩ | ⟨-, -, -, hc⟩ | ⟨-, -, i, -, hc⟩ := cpuStep_cases s <;> rw [hc] at h
  · cases h; rfl
  · cases h; rfl
  · cases h; rfl
  · exact exec_params h

theorem perform_params {e : Event} {s t : State} (h : perform e s = .next t) : t.params = s.params := by
  obtain ⟨image, -, -, rfl⟩ | ⟨keys, rnd, -, hstep⟩ | ⟨k, -, rfl⟩ | ⟨-, rfl⟩ | ⟨-, rfl⟩ := perform_cases h
  · exact s.resetWith_params image
  · exact (cpuStep_params hstep).trans (s.sampleInputs_params keys rnd)
  · exact s.keyEvent_params k
  · exact s.tick_params
  · rfl

theorem step_params {s t : State} (h : step s = .next t) : t.params = s.params := by
  rw [step_eq] at h
  exact (perform_params h).trans (s.takeEvent_keeps .params (by decide))

/-! ### The event a step performs -/

theorem step_of_takeEvent {s u : State} {e : Event} (h : s.takeEvent = (e, u)) :
    s.takeEvent.1 = e ∧ step s = perform e u := by
  rw [step_eq, h]
  exact ⟨rfl, rfl⟩

/-! ### The sound timer -/

theorem State.soundActive_iff (s : State) : s.soundActive = true ↔ s.st ≠ 0 := bne_iff_ne

/-- R211: outside HALTED a tick counts `ST` down, with 0 as the floor. -/
theorem State.tick_st_of_not_halted {s : State} (h : s.status ≠ .halted) :
    s.tick.st = if s.st = 0 then 0 else s.st - 1 := by
  unfold State.tick
  rw [if_neg h]

theorem exec_ldStVx (x : Nibble) (s : State) : exec (.ldStVx x) s = .next (s.setSt (s.reg x)).advance := rfl

/-! ### The load port -/

/-- The last byte written at an index in the port's range is the image's byte there. -/
theorem loadedImage_getElem_of_last {before after : List (BitVec 12 × Byte)} {index : BitVec 12} {data : Byte}
    (hindex : index.toNat < (loadedImage (before ++ (index, data) :: after)).length)
    (hlast : ∀ w ∈ after, w.1 ≠ index) :
    (loadedImage (before ++ (index, data) :: after))[index.toNat] = data := by
  have hafter : after.reverse.find? (fun w => w.1.toNat = index.toNat) = none := by
    simpa [BitVec.toNat_inj] using fun i b hw => hlast (i, b) hw
  simp [loadedImage, List.find?_append, hafter]

/-- A byte the port never wrote is 0 (log entry 6). -/
theorem loadedImage_getElem_of_unwritten {writes : List (BitVec 12 × Byte)} {k : Nat}
    (hk : k < (loadedImage writes).length) (hnone : ∀ w ∈ writes, w.1.toNat ≠ k) :
    (loadedImage writes)[k] = 0 := by
  have hfind : writes.reverse.find? (fun w => w.1.toNat = k) = none := by
    simpa using fun i b hw => hnone (i, b) hw
  simp [loadedImage, hfind]

/-- R231: byte `k` of the image stands at `0x200 + k` after its Reset. -/
theorem State.readByte_resetWith_image (s : State) {image : List Byte} {k : Nat} (hfits : image.length ≤ 3584)
    (hk : k < image.length) : (s.resetWith image).readByte (0x200 + k) = image[k] := by
  unfold State.readByte
  rw [resetWith_params, resetWith_mem, Memory.read_writeBytes _ _ _ _ (Memory.wf_nil _) (by omega), dif_pos (by omega)]
  simp only [Nat.add_sub_cancel_left]

/-! ### The events of one instant (R10) -/

theorem Edge.events_of_reset {e : Edge} {writes : List (BitVec 12 × Byte)} (h : e.reset = some writes) :
    e.events = [.reset (loadedImage writes)] := by
  unfold Edge.events
  rw [h]

/-- With no Reset: at most one event of each of the three strobes, in a row. -/
theorem Edge.events_of_no_reset {e : Edge} (h : e.reset = none) :
    e.events = (e.step.map fun p => Event.step p.1 p.2).toList ++ (e.keyEvt.map Event.keyEvent).toList ++
      (if e.tick then [.tick] else []) := by
  unfold Edge.events
  rw [h]
  cases e.step <;> cases e.keyEvt <;> rfl

theorem Edge.mem_events_iff {e : Edge} (h : e.reset = none) (ev : Event) :
    ev ∈ e.events ↔
      (∃ keys rnd, e.step = some (keys, rnd) ∧ ev = .step keys rnd) ∨
      (∃ k, e.keyEvt = some k ∧ ev = .keyEvent k) ∨ (e.tick = true ∧ ev = .tick) := by
  simp [Edge.events_of_no_reset h, eq_comm (a := ev)]

theorem Edge.events_pairwise_rank {e : Edge} (h : e.reset = none) :
    e.events.Pairwise fun a b => a.rank < b.rank := by
  rw [Edge.events_of_no_reset h]
  cases e.step <;> cases e.keyEvt <;> cases e.tick <;> simp [Event.rank]

theorem Signals.mem_edge_events_iff (g : Signals) (ev : Event) :
    ev ∈ (g.edge none).events ↔
      (g.step = true ∧ ev = .step g.keys g.rnd) ∨ (g.keyEvt = true ∧ ev = .keyEvent g.keyId) ∨
      (g.tick = true ∧ ev = .tick) := by
  rw [Edge.mem_events_iff rfl]
  simp [Signals.edge, and_assoc]

/-! ### Instants with `rst` at 1 (R11, R232) -/

/-- The Resets that instants with `rst` at 1 present, one each, `before` the bytes written before them. -/
def heldResets (before : List (BitVec 12 × Byte)) : List Signals → List Event
  | []      => []
  | g :: gs => .reset (loadedImage (before ++ g.write)) :: heldResets (before ++ g.write) gs

@[simp] theorem length_heldResets (before : List (BitVec 12 × Byte)) (hold : List Signals) :
    (heldResets before hold).length = hold.length := by
  induction hold generalizing before with
  | nil => rfl
  | cons g gs ih => simp [heldResets, ih]

/-- The Reset of instant `k` has the bytes written up to and in that instant. -/
theorem heldResets_getElem? (before : List (BitVec 12 × Byte)) {hold : List Signals} {k : Nat} (hk : k < hold.length) :
    (heldResets before hold)[k]? =
      some (.reset (loadedImage (before ++ (hold.take (k + 1)).flatMap Signals.write))) := by
  induction hold generalizing before k with
  | nil => cases hk
  | cons g gs ih =>
    cases k with
    | zero => simp [heldResets]
    | succ k => simp [heldResets, ih (before ++ g.write) (Nat.lt_of_succ_lt_succ hk)]

/-- One or more instants with `rst` at 1 present their Resets and leave the port with every byte they wrote. -/
theorem State.foldl_present_held (s : State) (g : Signals) (gs : List Signals) (hr : ∀ g' ∈ g :: gs, g'.rst = true) :
    (g :: gs).foldl State.present s =
      { s with env := { s.env with
          pending := s.env.pending ++ heldResets (s.env.loading.getD []) (g :: gs)
          loading := some (s.env.loading.getD [] ++ (g :: gs).flatMap Signals.write) } } := by
  induction gs generalizing s g with
  | nil => simp [State.present_held (hr g (List.mem_singleton_self g)), heldResets]
  | cons g' gs ih =>
    obtain ⟨hg, hgs⟩ := List.forall_mem_cons.mp hr
    rw [List.foldl_cons, ih _ _ hgs, State.present_held hg]
    simp [heldResets]

/-- The falling edge after them presents the Reset with all the bytes. -/
theorem State.foldl_present_held_falls {s : State} {hold : List Signals} {fall : Signals}
    (hl : s.env.loading = none) (hne : hold ≠ []) (hr : ∀ g ∈ hold, g.rst = true) (hf : fall.rst = false) :
    (hold ++ [fall]).foldl State.present s =
      { s with env := { s.env with
          pending := s.env.pending ++ heldResets [] hold ++ [.reset (loadedImage (hold.flatMap Signals.write))] } } := by
  obtain ⟨g, gs, rfl⟩ := List.exists_cons_of_ne_nil hne
  rw [List.foldl_append, State.foldl_present_held s g gs hr, List.foldl_cons, List.foldl_nil,
    State.present_falls hf rfl]
  simp [hl]

end Sys2Proof.Machine
end

section
/-! The scope's statements (00_scope), each from the lemmas above. -/
namespace Sys2Proof.Machine

/-- Settles O55: an instruction, an event and the taking of an event each keep the parameters. -/
theorem parametersNeverChange : Obligations.ParametersNeverChange := by
  unfold Obligations.ParametersNeverChange
  exact fun _ _ => step_params

/-- Settles O60: the image of the port's writes stands in Memory after its Reset, and instants with `rst` at 1 with
their falling edge script one Reset each. -/
theorem loadPortBytesStandFromLoadBase : Obligations.LoadPortBytesStandFromLoadBase := by
  unfold Obligations.LoadPortBytesStandFromLoadBase
  constructor
  · intro s writes
    have hfits : (loadedImage writes).length ≤ 3584 := Nat.le_of_eq (length_loadedImage writes)
    have hin : ∀ {k}, k ≤ 3583 → k < (loadedImage writes).length := fun hk => by
      rw [length_loadedImage]; exact Nat.lt_succ_of_le hk
    refine ⟨_, perform_reset hfits, ?_, ?_⟩
    · rintro before index data after rfl hindex hlast
      rw [State.readByte_resetWith_image s hfits (hin hindex), loadedImage_getElem_of_last (hin hindex) hlast]
    · intro k hk hnone
      rw [State.readByte_resetWith_image s hfits (hin hk), loadedImage_getElem_of_unwritten (hin hk) hnone]
  · intro s hold fall hl hne hr hf
    exact ⟨heldResets [] hold, State.foldl_present_held_falls hl hne hr hf, length_heldResets [] hold,
      fun _ hk => heldResets_getElem? [] hk⟩

/-- Settles O7: one clause for each case of taking an event. -/
theorem stepPerformsTheNextEvent : Obligations.StepPerformsTheNextEvent := by
  unfold Obligations.StepPerformsTheNextEvent
  intro s
  exact ⟨fun _ _ hp => step_of_takeEvent (State.takeEvent_nonempty hp),
    fun _ hp hl => step_of_takeEvent (State.takeEvent_held hp hl),
    fun hp hl => step_of_takeEvent (State.takeEvent_empty hp hl)⟩

/-- Settles O42: `sound_active` looks at `ST` alone, which FX18 sets to `V[X]` and a Tick takes from 1 to 0. -/
theorem soundIsActiveWhileItsTimerRuns : Obligations.SoundIsActiveWhileItsTimerRuns := by
  unfold Obligations.SoundIsActiveWhileItsTimerRuns
  intro s
  refine ⟨s.soundActive_iff, fun x => ⟨_, exec_ldStVx x s, ?_⟩, fun hs hst => ⟨_, perform_tick s, ?_⟩⟩
  · rw [State.soundActive_iff, State.advance_st, State.setSt_st]
  · have h0 : s.tick.st = 0 := by rw [State.tick_st_of_not_halted hs, hst]; decide
    simp [State.soundActive, h0]

/-- Settles O59: the events of an instant without a Reset, and the signals that cause them. -/
theorem coincidentEventsComeInTheStatedOrder : Obligations.CoincidentEventsComeInTheStatedOrder := by
  unfold Obligations.CoincidentEventsComeInTheStatedOrder
  refine ⟨fun e => ⟨fun _ => Edge.events_of_reset, fun h => ⟨Edge.mem_events_iff h, Edge.events_pairwise_rank h⟩⟩, ?_⟩
  intro s g hr hl
  exact ⟨(g.edge none).events, State.present_strobes hr hl, g.mem_edge_events_iff, Edge.events_pairwise_rank rfl⟩

end Sys2Proof.Machine
end

section
/-!
SUPPORT. What an instruction does, once for all 35 (10_state R39, 60_exceptions R198, R200): it enters the fault of the
table, or it has its effect. Every proof about an arbitrary instruction splits there and then speaks of `effect` alone.
-/
namespace Sys2Proof.Machine

/-- The state an instruction leaves when it does not fault (R39, R200): the meanings of 40_flow to 46_index_mem past
their fault checks. `exec_eq` ties it to `exec`. -/
def effect (i : Instr) (s : State) : State :=
  match i with
  | .cls          => (s.setDisplay (Vector.replicate 32 (Vector.replicate 64 false))).advance
  | .ret          => s.pop.setPc s.top
  | .sys _        => s.advance
  | .jp nnn       => s.setPc (addrWord nnn)
  | .call nnn     => (s.push (s.pc + 2)).setPc (addrWord nnn)
  | .seImm x nn   => s.skipIf (decide (s.reg x = nn))
  | .sneImm x nn  => s.skipIf (decide (s.reg x ≠ nn))
  | .seReg x y _  => s.skipIf (decide (s.reg x = s.reg y))
  | .ldImm x nn   => (s.writeReg x nn).advance
  | .addImm x nn  => (s.writeReg x (s.reg x + nn)).advance
  | .ldReg x y    => (s.writeReg x (s.reg y)).advance
  | .orReg x y    => (s.writeReg x (s.reg x ||| s.reg y)).advance
  | .andReg x y   => (s.writeReg x (s.reg x &&& s.reg y)).advance
  | .xorReg x y   => (s.writeReg x (s.reg x ^^^ s.reg y)).advance
  | .addReg x y   => (s.writeResultFlag x (s.reg x + s.reg y) (carry (s.reg x) (s.reg y))).advance
  | .sub x y      => (s.writeResultFlag x (s.reg x - s.reg y) (notBorrow (s.reg x) (s.reg y))).advance
  | .shr x y      => (s.writeResultFlag x (s.shiftOperand x y >>> 1) (shiftedOutRight (s.shiftOperand x y))).advance
  | .subn x y     => (s.writeResultFlag x (s.reg y - s.reg x) (notBorrow (s.reg y) (s.reg x))).advance
  | .shl x y      => (s.writeResultFlag x (s.shiftOperand x y <<< 1) (shiftedOutLeft (s.shiftOperand x y))).advance
  | .sneReg x y _ => s.skipIf (decide (s.reg x ≠ s.reg y))
  | .ldI nnn      => (s.setI (addrWord nnn)).advance
  | .jpV0 nnn     => s.setPc (addrWord nnn + byteWord (s.reg 0))
  | .rnd x nn     => (s.writeReg x (s.env.rnd &&& nn)).advance
  | .drw x y n    => ((s.setDisplay (s.blit x y n).1).writeReg flagReg (flagByte (s.blit x y n).2)).advance
  | .skp x        => s.skipIf (s.keyPressed x)
  | .sknp x       => s.skipIf (!s.keyPressed x)
  | .ldVxDt x     => (s.writeReg x s.dt).advance
  | .ldVxK x      => s.beginWait x
  | .ldDtVx x     => (s.setDt (s.reg x)).advance
  | .ldStVx x     => (s.setSt (s.reg x)).advance
  | .addIVx x     => (s.setI (s.i + byteWord (s.reg x))).advance
  | .ldFVx x      => (s.setI (glyphAddress s.params (s.reg x))).advance
  | .ldBVx x      => (s.storeBytes s.i.toNat (decimalDigits (s.reg x))).advance
  | .ldMemVx x    => (s.storeBytes s.i.toNat (s.regsTo x)).advance
  | .ldVxMem x    => (s.writeRegsTo x fun k => s.readByte (s.i.toNat + k)).advance

theorem spanFaults_iff (base n : Nat) : spanFaults base n = true ↔ 0 < n ∧ 4095 < base + n - 1 := decide_eq_true_iff

/-- A span that is not empty faults where its last byte is above 4095. -/
theorem spanFaults_succ_iff (base n : Nat) : spanFaults base (n + 1) = true ↔ 4095 < base + n := by
  rw [spanFaults_iff]; omega

theorem State.keyIndexFaults_iff (s : State) (x : Nibble) : s.keyIndexFaults x = true ↔ 15 < (s.reg x).toNat :=
  decide_eq_true_iff

/-- An instruction that checks `faults` is in the table's row with the same condition, said as `listed`. -/
theorem next_ite_eq_next_elim {faults listed : Prop} [Decidable faults] [Decidable listed] (h : faults ↔ listed)
    (s done : State) (e : Fault) (w : Word) :
    (if faults then .next (s.raise e w) else .next done : Host.Outcome State Fault Refusal) =
      .next ((if listed then some e else none).elim done (s.raise · w)) := by
  by_cases hl : listed
  · rw [if_pos (h.mpr hl), if_pos hl, Option.elim_some]
  · rw [if_neg (hl ∘ h.mp), if_neg hl, Option.elim_none]

/-- SYS looks at its policy alone (R110). -/
theorem execSys_eq (nnn : Addr) (s : State) :
    execSys nnn s = .next ((faultOf (.sys nnn) s).elim s.advance (s.raise · (encode (.sys nnn)))) := by
  unfold execSys faultOf
  cases s.params.sysPolicy <;> rfl

/-- Every instruction takes the fault of the table (R198), with the entry of R200, or has its effect. -/
theorem exec_eq (i : Instr) (s : State) :
    exec i s = .next ((faultOf i s).elim (effect i s) (s.raise · (encode i))) := by
  cases i with
  | sys nnn => exact execSys_eq nnn s
  | ret => exact next_ite_eq_next_elim Fin.ext_iff s _ _ _
  | call => exact next_ite_eq_next_elim Fin.ext_iff s _ _ _
  | skp x | sknp x => exact next_ite_eq_next_elim (s.keyIndexFaults_iff x) s _ _ _
  | drw x y n => exact next_ite_eq_next_elim (spanFaults_iff ..) s _ _ _
  | ldBVx | ldMemVx | ldVxMem => exact next_ite_eq_next_elim (spanFaults_succ_iff ..) s _ _ _
  | cls | jp | jpV0 | seImm | sneImm | seReg | sneReg | ldImm | addImm | ldReg | orReg | andReg | xorReg | addReg | sub
  | shr | subn | shl | ldI | rnd | ldVxDt | ldVxK | ldDtVx | ldStVx | addIVx | ldFVx => rfl

theorem exec_of_faultOf_none {i : Instr} {s : State} (h : faultOf i s = none) : exec i s = .next (effect i s) := by
  rw [exec_eq, h, Option.elim_none]

theorem exec_of_faultOf_some {i : Instr} {s : State} {e : Fault} (h : faultOf i s = some e) :
    exec i s = .next (s.raise e (encode i)) := by
  rw [exec_eq, h, Option.elim_some]

/-- What an instruction's next state can be. -/
theorem exec_cases {i : Instr} {s t : State} (h : exec i s = .next t) :
    (∃ e, faultOf i s = some e ∧ t = s.raise e (encode i)) ∨ (faultOf i s = none ∧ t = effect i s) := by
  cases hf : faultOf i s with
  | none => exact .inr ⟨rfl, Host.Outcome.next.inj (h.symm.trans (exec_of_faultOf_none hf))⟩
  | some e => exact .inl ⟨e, rfl, Host.Outcome.next.inj (h.symm.trans (exec_of_faultOf_some hf))⟩

end Sys2Proof.Machine
end

section
/-!
SUPPORT. The frame of an effect (10_state R39): the parts of the state and the registers it leaves alone, with one rule
for each set of fields that an update writes.
-/
namespace Sys2Proof.Machine

/-! ### Frames -/

theorem State.Keeps.trans {s t u : State} {p : Part} (hst : s.Keeps t p) (htu : t.Keeps u p) : s.Keeps u p := by
  cases p with
  | memory | gpr => exact fun a => (htu a).trans (hst a)
  | display => exact fun x y => (htu x y).trans (hst x y)
  | stack => exact ⟨htu.1.trans hst.1, htu.2.trans hst.2⟩
  | faultLatches => exact ⟨htu.1.trans hst.1, htu.2.1.trans hst.2.1, htu.2.2.trans hst.2.2⟩
  | addressReg | pc | delay | sound | status | keyLatch | params | env => exact Eq.trans htu hst

theorem State.KeepsAllBut.trans {s t u : State} {changed : List Part} (hst : s.KeepsAllBut t changed)
    (htu : t.KeepsAllBut u changed) : s.KeepsAllBut u changed :=
  fun p hp => (hst p hp).trans (htu p hp)

section Rows
variable (s : State)

theorem State.keepsAllBut_pc (pc : Word) : s.KeepsAllBut { s with pc } [.pc] := by
  apply State.keeps_of_fields <;> simp

theorem State.keepsAllBut_gpr_pc (v : Vector Byte 16) (pc : Word) : s.KeepsAllBut { s with v, pc } [.gpr, .pc] := by
  apply State.keeps_of_fields <;> simp

theorem State.keepsAllBut_stack_pc (sp : Fin 17) (stk : Vector Word 16) (pc : Word) :
    s.KeepsAllBut { s with sp, stk, pc } [.stack, .pc] := by
  apply State.keeps_of_fields <;> simp

theorem State.keepsAllBut_addressReg_pc (i pc : Word) : s.KeepsAllBut { s with i, pc } [.addressReg, .pc] := by
  apply State.keeps_of_fields <;> simp

theorem State.keepsAllBut_display_pc (d : Display) (pc : Word) : s.KeepsAllBut { s with d, pc } [.display, .pc] := by
  apply State.keeps_of_fields <;> simp

theorem State.keepsAllBut_display_gpr_pc (d : Display) (v : Vector Byte 16) (pc : Word) :
    s.KeepsAllBut { s with d, v, pc } [.display, .gpr, .pc] := by
  apply State.keeps_of_fields <;> simp

theorem State.keepsAllBut_delay_pc (dt : Byte) (pc : Word) : s.KeepsAllBut { s with dt, pc } [.delay, .pc] := by
  apply State.keeps_of_fields <;> simp

theorem State.keepsAllBut_sound_pc (st : Byte) (pc : Word) : s.KeepsAllBut { s with st, pc } [.sound, .pc] := by
  apply State.keeps_of_fields <;> simp

theorem State.keepsAllBut_memory_pc (mem : Memory) (pc : Word) : s.KeepsAllBut { s with mem, pc } [.memory, .pc] := by
  apply State.keeps_of_fields <;> simp

theorem State.keepsAllBut_status_keyLatch (status : Status) (kx : Nibble) :
    s.KeepsAllBut { s with status, kx } [.status, .keyLatch] := by
  apply State.keeps_of_fields <;> simp

theorem State.keepsAllBut_env (env : Env) : s.KeepsAllBut { s with env } [.env] := by
  apply State.keeps_of_fields <;> simp
end Rows

/-- The "writes" column of R39, one group of instructions for each set of parts. -/
theorem effect_keepsAllBut_writtenParts (i : Instr) (s : State) : s.KeepsAllBut (effect i s) (writtenParts i) := by
  cases i with
  | cls => exact s.keepsAllBut_display_pc _ _
  | ret | call => exact s.keepsAllBut_stack_pc _ _ _
  | sys | jp | jpV0 | seImm | sneImm | seReg | sneReg | skp | sknp => exact s.keepsAllBut_pc _
  | ldImm | addImm | rnd | ldVxDt | ldReg | orReg | andReg | xorReg | addReg | sub | shr | subn | shl =>
    exact s.keepsAllBut_gpr_pc _ _
  | ldVxMem => apply State.keeps_of_fields <;> simp [effect, writtenParts]
  | ldI | addIVx | ldFVx => exact s.keepsAllBut_addressReg_pc _ _
  | drw => exact s.keepsAllBut_display_gpr_pc _ _ _
  | ldVxK => exact s.keepsAllBut_status_keyLatch _ _
  | ldDtVx => exact s.keepsAllBut_delay_pc _ _
  | ldStVx => exact s.keepsAllBut_sound_pc _ _
  | ldBVx | ldMemVx => exact s.keepsAllBut_memory_pc _ _

/-! ### Registers -/

theorem State.keepsRegsBut_of_v_eq {s t : State} (h : t.v = s.v) (changed : List Nibble) :
    s.KeepsRegsBut t changed := fun r _ => State.reg_congr h r

theorem State.KeepsRegsBut.advance {s t : State} {changed : List Nibble} (h : s.KeepsRegsBut t changed) :
    s.KeepsRegsBut t.advance changed := h

theorem State.keepsRegsBut_writeReg (s : State) (x : Nibble) (b : Byte) : s.KeepsRegsBut (s.writeReg x b) [x] :=
  fun _ hr => s.reg_writeReg_other b (List.ne_of_not_mem_cons hr)

theorem State.keepsRegsBut_writeResultFlag (s : State) (x : Nibble) (b : Byte) (c : Bool) :
    s.KeepsRegsBut (s.writeResultFlag x b c) [x, flagReg] := by
  intro r hr
  rw [List.mem_cons, List.mem_singleton, not_or] at hr
  rw [State.reg_writeResultFlag, if_neg hr.2, if_neg hr.1]

/-- The destination registers of FX65 are those up to `V[X]` (R184). -/
theorem mem_writtenRegs_ldVxMem_iff (x r : Nibble) : r ∈ writtenRegs (.ldVxMem x) ↔ r.toNat ≤ x.toNat := by
  simp only [writtenRegs, List.mem_map, List.mem_range, Nat.lt_succ_iff]
  constructor
  · rintro ⟨k, hk, rfl⟩
    exact (Nat.mod_le ..).trans hk
  · exact fun hr => ⟨r.toNat, hr, (BitVec.ofNat_toNat ..).trans (BitVec.setWidth_eq r)⟩

theorem State.keepsRegsBut_writeRegsTo (s : State) (x : Nibble) (f : Nat → Byte) :
    s.KeepsRegsBut (s.writeRegsTo x f) (writtenRegs (.ldVxMem x)) := by
  intro r hr
  rw [s.reg_writeRegsTo, if_neg (mt (mem_writtenRegs_ldVxMem_iff x r).mpr hr)]

theorem effect_keepsRegsBut_writtenRegs (i : Instr) (s : State) : s.KeepsRegsBut (effect i s) (writtenRegs i) := by
  cases i with
  | cls | ret | sys | jp | call | seImm | sneImm | seReg | sneReg | ldI | jpV0 | skp | sknp | ldVxK | ldDtVx | ldStVx
  | addIVx | ldFVx | ldBVx | ldMemVx => exact State.keepsRegsBut_of_v_eq rfl _
  | ldImm | addImm | rnd | ldVxDt | ldReg | orReg | andReg | xorReg => exact (s.keepsRegsBut_writeReg _ _).advance
  | addReg | sub | shr | subn | shl => exact (s.keepsRegsBut_writeResultFlag _ _ _).advance
  | drw x y n => exact ((s.setDisplay (s.blit x y n).1).keepsRegsBut_writeReg flagReg _).advance
  | ldVxMem x => exact (s.keepsRegsBut_writeRegsTo x _).advance

/-! ### Memory and the stack -/

theorem State.readByte_storeBytes_outside (s : State) {a b : Nat} {bytes : List Byte}
    (h : b < a ∨ a + bytes.length ≤ b) : (s.storeBytes a bytes).readByte b = s.readByte b :=
  Memory.read_writeBytes_outside s.params a b bytes s.mem h

theorem effect_ldBVx_readByte_outside (x : Nibble) (s : State) {a : Nat} (h : a < s.i.toNat ∨ s.i.toNat + 2 < a) :
    (effect (.ldBVx x) s).readByte a = s.readByte a :=
  s.readByte_storeBytes_outside h

theorem effect_ldMemVx_readByte_outside (x : Nibble) (s : State) {a : Nat}
    (h : a < s.i.toNat ∨ s.i.toNat + x.toNat < a) : (effect (.ldMemVx x) s).readByte a = s.readByte a :=
  s.readByte_storeBytes_outside (by rw [State.regsTo_length]; exact h)

theorem State.push_stk_getElem (s : State) (w : Word) (j : Fin 16) :
    (s.push w).stk[j] = if j.val = s.sp.val then w else s.stk[j] := by
  simp [Vector.getElem_setIfInBounds, eq_comm]

theorem effect_call_stk_other (nnn : Addr) (s : State) {j : Fin 16} (h : j.val ≠ s.sp.val) :
    (effect (.call nnn) s).stk[j] = s.stk[j] :=
  (s.push_stk_getElem _ j).trans (if_neg h)

end Sys2Proof.Machine
end

section
/-!
SUPPORT. What an effect writes: the pc of R26's table, the flag of R23, the pixels of a draw; and that it commutes with
sampling an input it does not read (R37, R134).
-/
namespace Sys2Proof.Machine

/-! ### The pc -/

theorem addrWord_toNat (nnn : Addr) : (addrWord nnn).toNat = nnn.toNat :=
  BitVec.toNat_setWidth_of_le (by decide)

/-- R114: the sum of an address and a byte does not reach 65536. -/
theorem addrWord_add_byteWord_toNat (nnn : Addr) (b : Byte) :
    (addrWord nnn + byteWord b).toNat = nnn.toNat + b.toNat := by
  unfold addrWord byteWord
  bv_omega

theorem toNat_add_two {pc : Word} (h : pc.toNat ≤ 4094) : (pc + 2).toNat = pc.toNat + 2 := by
  bv_omega

theorem State.skipIf_pc_toNat {s : State} (h : s.pc.toNat ≤ 4094) {c : Bool} {p : Prop} [Decidable p]
    (hc : c = true ↔ p) : (s.skipIf c).pc.toNat = if p then s.pc.toNat + 4 else s.pc.toNat + 2 := by
  simp only [State.skipIf_pc, hc]
  split <;> bv_omega

/-- R26, for a `pc` a fetch can have. -/
theorem effect_pc_toNat (i : Instr) {s : State} (h : s.pc.toNat ≤ 4094) : (effect i s).pc.toNat = pcAfter i s := by
  have hfits : s.pc.toNat + 2 < 65536 := by omega
  cases i with
  | jp nnn | call nnn => exact addrWord_toNat nnn
  | jpV0 nnn => exact addrWord_add_byteWord_toNat nnn (s.reg 0)
  | ret | ldVxK => rfl
  | seImm | sneImm | seReg | sneReg => exact State.skipIf_pc_toNat h decide_eq_true_iff
  | skp => exact State.skipIf_pc_toNat h Iff.rfl
  | sknp => exact State.skipIf_pc_toNat h (Bool.not_eq_true' _).to_iff
  | cls | sys | ldImm | addImm | ldReg | orReg | andReg | xorReg | addReg | sub | shr | subn | shl | ldI | rnd | drw
  | ldVxDt | ldDtVx | ldStVx | addIVx | ldFVx | ldBVx | ldMemVx | ldVxMem => simp [effect, pcAfter, hfits]

theorem State.keyEvent_of_waiting {s : State} (h : s.status = .awaitKey) (k : Nibble) :
    s.keyEvent k = ((s.writeReg s.kx (nibbleByte k)).advance).resume := if_pos h

theorem State.keyEvent_of_not_waiting {s : State} (h : s.status ≠ .awaitKey) (k : Nibble) : s.keyEvent k = s := if_neg h

theorem State.keyEvent_pc_toNat {s : State} (h : s.status = .awaitKey) (hpc : s.pc.toNat ≤ 4094) (k : Nibble) :
    (s.keyEvent k).pc.toNat = s.pc.toNat + 2 := by
  rw [State.keyEvent_of_waiting h]
  exact toNat_add_two hpc

/-! ### The flag -/

theorem flagByte_decide (p : Prop) [Decidable p] : flagByte (decide p) = if p then 1 else 0 := by
  simp [flagByte]

theorem flagByte_toNat (c : Bool) : (flagByte c).toNat = c.toNat := by
  cases c <;> rfl

theorem State.reg_flag_writeResultFlag (s : State) (x : Nibble) (b : Byte) (c : Bool) :
    (s.writeResultFlag x b c).reg 15 = flagByte c :=
  State.reg_writeReg_same ..

theorem State.shiftOperand_eq (s : State) (x y : Nibble) :
    s.shiftOperand x y = if s.params.shiftSrc = .vx then s.reg x else s.reg y := by
  unfold State.shiftOperand
  cases s.params.shiftSrc <;> rfl

theorem flagByte_shiftedOutRight_toNat (b : Byte) : (flagByte (shiftedOutRight b)).toNat = b.toNat % 2 := by
  rw [flagByte_toNat]
  exact (Nat.toNat_testBit _ _).trans (by simp)

theorem flagByte_shiftedOutLeft_toNat (b : Byte) : (flagByte (shiftedOutLeft b)).toNat = b.toNat / 128 := by
  rw [flagByte_toNat]
  refine (Nat.toNat_testBit _ _).trans ?_
  omega

theorem effect_addReg_flag (x y : Nibble) (s : State) :
    (effect (.addReg x y) s).reg 15 = if (s.reg x).toNat + (s.reg y).toNat > 255 then 1 else 0 :=
  (s.reg_flag_writeResultFlag ..).trans (flagByte_decide _)

theorem effect_sub_flag (x y : Nibble) (s : State) :
    (effect (.sub x y) s).reg 15 = if (s.reg x).toNat ≥ (s.reg y).toNat then 1 else 0 :=
  (s.reg_flag_writeResultFlag ..).trans (flagByte_decide _)

theorem effect_subn_flag (x y : Nibble) (s : State) :
    (effect (.subn x y) s).reg 15 = if (s.reg y).toNat ≥ (s.reg x).toNat then 1 else 0 :=
  (s.reg_flag_writeResultFlag ..).trans (flagByte_decide _)

theorem effect_shr_flag_toNat (x y : Nibble) (s : State) :
    ((effect (.shr x y) s).reg 15).toNat = (if s.params.shiftSrc = .vx then s.reg x else s.reg y).toNat % 2 := by
  rw [← s.shiftOperand_eq, ← flagByte_shiftedOutRight_toNat]
  exact congrArg _ (s.reg_flag_writeResultFlag ..)

theorem effect_shl_flag_toNat (x y : Nibble) (s : State) :
    ((effect (.shl x y) s).reg 15).toNat = (if s.params.shiftSrc = .vx then s.reg x else s.reg y).toNat / 128 := by
  rw [← s.shiftOperand_eq, ← flagByte_shiftedOutLeft_toNat]
  exact congrArg _ (s.reg_flag_writeResultFlag ..)

/-! ### The draw -/

/-- A sprite has at most 15 rows, so no row wraps onto another. -/
theorem State.readBytes_length_le (s : State) (n : Nibble) : (s.readBytes s.i.toNat n.toNat).length ≤ 32 := by
  have := n.isLt
  simp only [State.readBytes, List.length_map, List.length_range]
  omega

theorem State.blit_pixel_of_spriteBit {s : State} {x y n : Nibble} {col : Fin 64} {row : Fin 32}
    (h : SpriteBit s x y n col row) : (s.blit x y n).1[row][col] = !s.pixel col row :=
  (blitRows_pixel _ _ _ (s.readBytes_length_le n) _ col row).1 ((spriteBit_iff ..).mp h)

theorem State.blit_pixel_of_not_spriteBit {s : State} {x y n : Nibble} {col : Fin 64} {row : Fin 32}
    (h : ¬ SpriteBit s x y n col row) : (s.blit x y n).1[row][col] = s.pixel col row :=
  (blitRows_pixel _ _ _ (s.readBytes_length_le n) _ col row).2 (mt (spriteBit_iff ..).mpr h)

theorem State.blit_collision_iff (s : State) (x y n : Nibble) :
    (s.blit x y n).2 = true ↔ ∃ col row, SpriteBit s x y n col row ∧ s.pixel col row = true := by
  simp only [State.blit, blitRows_collision _ _ _ (s.readBytes_length_le n), spriteBit_iff, Bool.false_eq_true,
    false_or]
  rfl

theorem effect_drw_pixel (x y n : Nibble) (s : State) (col : Fin 64) (row : Fin 32) :
    (effect (.drw x y n) s).pixel col row = (s.blit x y n).1[row][col] := rfl

/-- R164: the collision is that some pixel goes from on to off. -/
theorem effect_drw_turnsOff_iff (x y n : Nibble) (s : State) :
    (∃ col row, s.pixel col row = true ∧ (effect (.drw x y n) s).pixel col row = false) ↔
      (s.blit x y n).2 = true := by
  rw [State.blit_collision_iff]
  refine exists_congr fun col => exists_congr fun row => ?_
  rw [effect_drw_pixel]
  by_cases hbit : SpriteBit s x y n col row
  · rw [State.blit_pixel_of_spriteBit hbit]
    simp [hbit]
  · rw [State.blit_pixel_of_not_spriteBit hbit]
    simp [hbit]

theorem effect_drw_flag (x y n : Nibble) (s : State) :
    (effect (.drw x y n) s).reg 15 = flagByte (s.blit x y n).2 :=
  State.reg_writeReg_same ..

/-! ### The inputs of a Step -/

theorem faultOf_sampleInputs (i : Instr) (s : State) (keys : BitVec 16) (rnd : Byte) :
    faultOf i (s.sampleInputs keys rnd) = faultOf i s := by
  cases i <;> rfl

/-- An instruction cannot tell these inputs from the state's own: the key snapshot is the same where it is SKP or SKNP,
the random byte where it is RND. -/
structure InputsUnread (i : Instr) (s : State) (keys : BitVec 16) (rnd : Byte) : Prop where
  skp  : ∀ x, i = .skp x → s.env.keys = keys
  sknp : ∀ x, i = .sknp x → s.env.keys = keys
  rnd  : ∀ x nn, i = .rnd x nn → s.env.rnd = rnd

theorem effect_sampleInputs {i : Instr} {s : State} {keys : BitVec 16} {rnd : Byte} (h : InputsUnread i s keys rnd) :
    effect i (s.sampleInputs keys rnd) = (effect i s).sampleInputs keys rnd := by
  cases i with
  | skp x => cases h.skp x rfl; rfl
  | sknp x => cases h.sknp x rfl; rfl
  | rnd x nn => cases h.rnd x nn rfl; rfl
  | cls | ret | sys | jp | call | seImm | sneImm | seReg | ldImm | addImm | ldReg | orReg | andReg | xorReg | addReg
  | sub | shr | subn | shl | sneReg | ldI | jpV0 | drw | ldVxDt | ldVxK | ldDtVx | ldStVx | addIVx | ldFVx | ldBVx
  | ldMemVx | ldVxMem => rfl

theorem exec_sampleInputs {i : Instr} {s t : State} {keys : BitVec 16} {rnd : Byte} (h : InputsUnread i s keys rnd)
    (ht : exec i s = .next t) : exec i (s.sampleInputs keys rnd) = .next (t.sampleInputs keys rnd) := by
  obtain ⟨e, hf, rfl⟩ | ⟨hf, rfl⟩ := exec_cases ht
  · rw [exec_of_faultOf_some ((faultOf_sampleInputs ..).trans hf)]
    rfl
  · rw [exec_of_faultOf_none ((faultOf_sampleInputs ..).trans hf), effect_sampleInputs h]

end Sys2Proof.Machine
end

section
/-!
SUPPORT. The invariant of reachable states (10_state R41): kept by a fault entry, an effect and each event, so that it
holds of every reachable state; and that HALTED is frozen (60_exceptions R202).
-/
namespace Sys2Proof.Machine

/-! ### The word of FX0A -/

theorem fields_of_decodeMisc_ldVxK {w : Word} {x : Nibble} (h : decodeMisc w = .ok (.ldVxK x)) :
    fieldNN w = 0x0A ∧ fieldX w = x := by
  unfold decodeMisc at h
  split at h <;> cases h
  next hnn => exact ⟨hnn, rfl⟩

theorem family_of_decode_ldVxK {policy : Config.SysPolicy} {w : Word} {x : Nibble}
    (h : decode policy w = .ok (.ldVxK x)) : fieldF w = 0xF ∧ decodeMisc w = .ok (.ldVxK x) := by
  unfold decode at h
  split at h
  case h_1 => unfold decodeZero at h; split_ifs at h <;> cases policy <;> cases h
  case h_9 => unfold decodeAlu at h; split at h <;> cases h
  case h_15 => unfold decodeKey at h; split at h <;> cases h
  case h_16 =>
    refine ⟨?_, h⟩
    generalize fieldF w = f at *
    clear h
    revert f
    decide
  all_goals cases h

/-- No bit of an FX0A is dropped: the word that decodes to it is its encoding (R90). -/
theorem eq_encode_of_decode_ldVxK {policy : Config.SysPolicy} {w : Word} {x : Nibble}
    (h : decode policy w = .ok (.ldVxK x)) : w = encode (.ldVxK x) := by
  obtain ⟨hfamily, hmisc⟩ := family_of_decode_ldVxK h
  obtain ⟨hselector, hx⟩ := fields_of_decodeMisc_ldVxK hmisc
  rw [← formatXI_fields w, hfamily, hx, hselector]
  rfl

/-! ### The invariant, state by state -/

/-- The invariant says nothing of the registers, `I`, the timers, the display and the environment. -/
theorem State.Inv.withUnconstrained {s : State} (h : s.Inv) (v : Vector Byte 16) (i : Word) (dt st : Byte)
    (d : Display) (env : Env) : State.Inv { s with v, i, dt, st, d, env } :=
  ⟨h.memoryForm, h.codeIffHalt, h.codeProduced, h.latchesClear, h.pcBound, h.stackBound, h.waitingWord⟩

theorem State.Inv.latches {s : State} (h : s.Inv) (hs : s.status ≠ .halted) :
    s.fcode = 0 ∧ s.fpc = 0 ∧ s.fword = 0 :=
  ⟨h.codeIffHalt.mpr hs, h.latchesClear hs⟩

/-- Outside HALTED the latches are clear. -/
theorem State.inv_of_not_halted {s : State} (hs : s.status ≠ .halted) (hmem : Memory.wf s.params s.mem = true)
    (hlatches : s.fcode = 0 ∧ s.fpc = 0 ∧ s.fword = 0) (hpc : s.pc.toNat ≤ 0x10FE)
    (hstk : ∀ j : Fin 16, j.val < s.sp.val → (s.stk[j]).toNat ≤ 4096)
    (hwait : s.status = .awaitKey → s.pc.toNat ≤ 4094 ∧ s.fetchWord = encode (.ldVxK s.kx)) : s.Inv := by
  obtain ⟨hcode, hfpc, hfword⟩ := hlatches
  exact ⟨hmem, iff_of_true hcode hs, by rw [hcode]; decide, fun _ => ⟨hfpc, hfword⟩, hpc, hstk, hwait⟩

theorem State.inv_of_running {s : State} (hs : s.status = .running) (hmem : Memory.wf s.params s.mem = true)
    (hlatches : s.fcode = 0 ∧ s.fpc = 0 ∧ s.fword = 0) (hpc : s.pc.toNat ≤ 0x10FE)
    (hstk : ∀ j : Fin 16, j.val < s.sp.val → (s.stk[j]).toNat ≤ 4096) : s.Inv :=
  State.inv_of_not_halted (by simp [hs]) hmem hlatches hpc hstk (by simp [hs])

/-- Every field of the core at its reset value, any memory of the canonical form (R40). -/
theorem State.inv_reset {params : Config.Params} {mem : Memory} (hmem : Memory.wf params mem = true) (env : Env) :
    State.Inv { State.reset with mem, params, env } :=
  State.inv_of_running rfl hmem ⟨rfl, rfl, rfl⟩ (show 0x200 ≤ 0x10FE by decide) fun j hj => absurd hj j.val.not_lt_zero

theorem Fault.code_produced {e : Fault} (he : e ≠ .operandRangeError) : e.code ≠ 0 ∧ e.code ≠ 4 ∧ e.code ≠ 7 := by
  cases e with
  | operandRangeError => exact absurd rfl he
  | _ => decide

/-- A fault entry keeps the invariant, but for the fault that nothing raises (R195). -/
theorem State.raise_preserves_inv {s : State} (h : s.Inv) {e : Fault} (he : e ≠ .operandRangeError) (w : Word) :
    (s.raise e w).Inv := by
  obtain ⟨hzero, hproduced⟩ := Fault.code_produced he
  exact ⟨h.memoryForm, iff_of_false hzero (· rfl), hproduced, fun hs => absurd rfl hs, h.pcBound, h.stackBound,
    fun hs => by cases hs⟩

theorem State.tick_preserves_inv {s : State} (h : s.Inv) : s.tick.Inv := by
  unfold State.tick
  split
  · exact h
  · exact h.withUnconstrained ..

theorem State.keyEvent_preserves_inv {s : State} (h : s.Inv) (k : Nibble) : (s.keyEvent k).Inv := by
  by_cases hs : s.status = .awaitKey
  · obtain ⟨hpc, -⟩ := h.waitingWord hs
    have hpc' := State.keyEvent_pc_toNat hs hpc k
    rw [State.keyEvent_of_waiting hs] at hpc' ⊢
    exact State.inv_of_running rfl h.memoryForm (h.latches (by simp [hs])) (by omega) h.stackBound
  · rwa [State.keyEvent_of_not_waiting hs]

theorem State.inv_resetWith (s : State) {image : List Byte} (hfits : image.length ≤ 3584) :
    (s.resetWith image).Inv :=
  State.inv_reset (s.resetWith_memory_wf image hfits) s.env

theorem State.takeEvent_eq (s : State) : s.takeEvent.2 = { s with env := s.takeEvent.2.env } := by
  unfold State.takeEvent
  split <;> rfl

theorem State.takeEvent_preserves_inv {s : State} (h : s.Inv) : s.takeEvent.2.Inv := by
  rw [s.takeEvent_eq]
  exact h.withUnconstrained ..

/-! ### The invariant along an instruction -/

theorem faultOf_ne_operandRangeError {i : Instr} {s : State} {e : Fault} (h : faultOf i s = some e) :
    e ≠ .operandRangeError := by
  rintro rfl
  cases i <;> simp [faultOf] at h

theorem effect_faultLatches (i : Instr) (s : State) :
    (effect i s).fcode = s.fcode ∧ (effect i s).fpc = s.fpc ∧ (effect i s).fword = s.fword :=
  effect_keepsAllBut_writtenParts i s .faultLatches (by cases i <;> simp [writtenParts])

theorem effect_status {i : Instr} (hwait : ∀ x, i ≠ .ldVxK x) (s : State) : (effect i s).status = s.status := by
  refine effect_keepsAllBut_writtenParts i s .status ?_
  cases i with
  | ldVxK x => exact absurd rfl (hwait x)
  | _ => simp [writtenParts]

theorem effect_memory_wf {i : Instr} {s : State} (hf : faultOf i s = none) (h : Memory.wf s.params s.mem = true) :
    Memory.wf (effect i s).params (effect i s).mem = true := by
  cases i with
  | ldBVx x =>
    have hspan : ¬ 4095 < s.i.toNat + 2 := by simpa [faultOf] using hf
    exact Memory.wf_writeBytes _ _ h (by simp only [decimalDigits, List.length_cons, List.length_nil]; omega)
  | ldMemVx x =>
    have hspan : ¬ 4095 < s.i.toNat + x.toNat := by simpa [faultOf] using hf
    exact Memory.wf_writeBytes _ _ h (by rw [State.regsTo_length]; omega)
  | _ => simpa [effect] using h

theorem State.Inv.pcAfter_le {s : State} (h : s.Inv) {i : Instr} (hf : faultOf i s = none) (hpc : s.pc.toNat ≤ 4094) :
    pcAfter i s ≤ 0x10FE := by
  cases i with
  | jp nnn | call nnn => exact (Nat.le_of_lt nnn.isLt).trans (by decide)
  | jpV0 nnn =>
    have haddr := nnn.isLt
    have hbyte := (s.reg 0).isLt
    simp only [pcAfter]
    omega
  | ret =>
    have hsp : s.sp.val ≠ 0 := by simpa [faultOf] using hf
    refine (h.stackBound (Fin.ofNat 16 (s.sp.val - 1)) ?_).trans (by decide)
    simp only [Fin.val_ofNat]
    omega
  | seImm | sneImm | seReg | sneReg | skp | sknp =>
    simp only [pcAfter]
    split <;> omega
  | _ => simp only [pcAfter]; omega

theorem State.Inv.effect_stack_le {s : State} (h : s.Inv) {i : Instr} (hf : faultOf i s = none)
    (hpc : s.pc.toNat ≤ 4094) (j : Fin 16) (hj : j.val < (effect i s).sp.val) :
    ((effect i s).stk[j]).toNat ≤ 4096 := by
  cases i with
  | ret => exact h.stackBound j (Nat.lt_of_lt_of_le hj (Nat.sub_le ..))
  | call nnn =>
    have hsp : s.sp.val ≠ 16 := by simpa [faultOf] using hf
    have hj' : j.val < s.sp.val + 1 := by rwa [← s.push_sp_val (s.pc + 2) (by omega)]
    show ((s.push (s.pc + 2)).stk[j]).toNat ≤ 4096
    rw [State.push_stk_getElem]
    split
    · rw [toNat_add_two hpc]; omega
    · exact h.stackBound j (by omega)
  | _ => simpa [effect] using h.stackBound j (by simpa [effect] using hj)

theorem State.beginWait_preserves_inv {s : State} (h : s.Inv) (hrun : s.status = .running) (hpc : s.pc.toNat ≤ 4094)
    {x : Nibble} (hword : s.fetchWord = encode (.ldVxK x)) : (s.beginWait x).Inv :=
  State.inv_of_not_halted (by simp) h.memoryForm (h.latches (by simp [hrun])) h.pcBound h.stackBound
    fun _ => ⟨hpc, hword⟩

/-- The instruction a Step has fetched keeps the invariant. -/
theorem effect_preserves_inv {s : State} (h : s.Inv) (hrun : s.status = .running) (hpc : s.pc.toNat ≤ 4094) {i : Instr}
    (hd : decode s.params.sysPolicy s.fetchWord = .ok i) (hf : faultOf i s = none) : (effect i s).Inv := by
  by_cases hwait : ∃ x, i = .ldVxK x
  · obtain ⟨x, rfl⟩ := hwait
    exact State.beginWait_preserves_inv h hrun hpc (eq_encode_of_decode_ldVxK hd)
  · obtain ⟨hcode, hfpc, hfword⟩ := effect_faultLatches i s
    refine State.inv_of_running ?_ (effect_memory_wf hf h.memoryForm) ?_ ?_ (h.effect_stack_le hf hpc)
    · exact (effect_status (not_exists.mp hwait) s).trans hrun
    · rw [hcode, hfpc, hfword]
      exact h.latches (by simp [hrun])
    · rw [effect_pc_toNat i hpc]
      exact h.pcAfter_le hf hpc

theorem exec_preserves_inv {s t : State} (h : s.Inv) (hrun : s.status = .running) (hpc : s.pc.toNat ≤ 4094) {i : Instr}
    (hd : decode s.params.sysPolicy s.fetchWord = .ok i) (ht : exec i s = .next t) : t.Inv := by
  obtain ⟨e, hf, rfl⟩ | ⟨hf, rfl⟩ := exec_cases ht
  · exact State.raise_preserves_inv h (faultOf_ne_operandRangeError hf) _
  · exact effect_preserves_inv h hrun hpc hd hf

/-! ### The invariant along an event -/

theorem cpuStep_preserves_inv {s t : State} (h : s.Inv) (ht : cpuStep s = .next t) : t.Inv := by
  obtain ⟨-, hc⟩ | ⟨-, -, hc⟩ | ⟨-, -, -, hc⟩ | ⟨hrun, hpc, i, hd, hc⟩ := cpuStep_cases s <;> rw [hc] at ht
  · cases ht; exact h
  · cases ht; exact State.raise_preserves_inv h (by decide) _
  · cases ht; exact State.raise_preserves_inv h (by decide) _
  · exact exec_preserves_inv h hrun hpc hd ht

theorem perform_preserves_inv {e : Event} {s t : State} (h : s.Inv) (ht : perform e s = .next t) : t.Inv := by
  obtain ⟨image, -, hfits, rfl⟩ | ⟨keys, rnd, -, hstep⟩ | ⟨k, -, rfl⟩ | ⟨-, rfl⟩ | ⟨-, rfl⟩ := perform_cases ht
  · exact s.inv_resetWith hfits
  · exact cpuStep_preserves_inv (h.withUnconstrained s.v s.i s.dt s.st s.d _) hstep
  · exact State.keyEvent_preserves_inv h k
  · exact State.tick_preserves_inv h
  · exact h

theorem step_preserves_inv {s t : State} (h : s.Inv) (ht : step s = .next t) : t.Inv := by
  rw [step_eq] at ht
  exact perform_preserves_inv (State.takeEvent_preserves_inv h) ht

theorem Reachable.inv {s : State} (h : Reachable s) : s.Inv := by
  induction h with
  | reset params env => exact State.inv_reset rfl env
  | event _ ht ih => exact step_preserves_inv ih ht

/-! ### HALTED -/

/-- R202: in HALTED every event but a Reset leaves the core alone. -/
theorem perform_halted {s : State} (hs : s.status = .halted) {e : Event} (he : ∀ image, e ≠ .reset image) :
    ∃ t, perform e s = .next t ∧ s.KeepsAllBut t [.env] := by
  have hself : s.KeepsAllBut s [.env] := s.keepsAllBut_env s.env
  cases e with
  | reset image => exact absurd rfl (he image)
  | step keys rnd =>
    have hidle : (s.sampleInputs keys rnd).status ≠ .running := by simp [hs]
    exact ⟨_, cpuStep_idle hidle, s.keepsAllBut_env _⟩
  | keyEvent k => exact ⟨s, congrArg _ (State.keyEvent_of_not_waiting (by simp [hs]) k), hself⟩
  | tick => exact ⟨s, congrArg _ (if_pos hs), hself⟩
  | hostRead => exact ⟨s, perform_hostRead s, hself⟩

theorem step_halted {s : State} (hs : s.status = .halted) (he : ∀ image, s.takeEvent.1 ≠ .reset image) :
    ∃ t, step s = .next t ∧ s.KeepsAllBut t [.env] := by
  have htaken : s.takeEvent.2.status = .halted := Eq.trans (s.takeEvent_keeps .status (by decide)) hs
  obtain ⟨t, ht, hkeeps⟩ := perform_halted htaken he
  exact ⟨t, ht, s.takeEvent_keeps.trans hkeeps⟩

theorem State.statusOut_toNat_le (s : State) : s.statusOut.toNat ≤ 2 := by
  unfold State.statusOut
  split <;> decide

end Sys2Proof.Machine
end

section
/-! The statements about the state (10_state), each from the lemmas above. -/
namespace Sys2Proof.Machine

/-- Settles O57: taking the event keeps the invariant, and so does each of the five events; a Step by the pc table, the
write table and the word it has fetched. -/
theorem everyStepKeepsTheInvariant : Obligations.EveryStepKeepsTheInvariant := by
  unfold Obligations.EveryStepKeepsTheInvariant
  exact fun _ _ => step_preserves_inv

/-- Settles O56: the reset state lists no memory. -/
theorem invariantHoldsAtReset : Obligations.InvariantHoldsAtReset := by
  unfold Obligations.InvariantHoldsAtReset
  exact fun params env => State.inv_reset (Memory.wf_nil params) env

/-- Settles O49: an instruction enters its fault or has its effect. -/
theorem everyInstructionAnswersANextState : Obligations.EveryInstructionAnswersANextState := by
  unfold Obligations.EveryInstructionAnswersANextState
  exact fun i s => ⟨_, exec_eq i s⟩

/-- Settles O51: an effect leaves the pc of the table, a fault entry leaves it alone. -/
theorem pcFollowsItsTable : Obligations.PcFollowsItsTable := by
  unfold Obligations.PcFollowsItsTable
  intro i s t hpc
  refine ⟨fun hf ht => ?_, fun hf ht => ?_, fun k hs => State.keyEvent_pc_toNat hs hpc k⟩
  · cases (exec_of_faultOf_none hf).symm.trans ht
    exact effect_pc_toNat i hpc
  · obtain ⟨e, he⟩ := Option.ne_none_iff_exists'.mp hf
    cases (exec_of_faultOf_some he).symm.trans ht
    exact s.raise_pc e _

/-- Settles O52: the frame of an effect, part by part, register by register, and for bytes and stack entries. -/
theorem instructionsWriteOnlyTheirRow : Obligations.InstructionsWriteOnlyTheirRow := by
  unfold Obligations.InstructionsWriteOnlyTheirRow
  intro i s t hf ht
  cases (exec_of_faultOf_none hf).symm.trans ht
  refine ⟨effect_keepsAllBut_writtenParts i s, effect_keepsRegsBut_writtenRegs i s, ?_, ?_, ?_, ?_⟩
  · rintro x rfl a
    exact effect_ldBVx_readByte_outside x s
  · rintro x rfl a
    exact effect_ldMemVx_readByte_outside x s
  · rintro rfl
    rfl
  · rintro nnn rfl j
    exact effect_call_stk_other nnn s

/-- Settles O53: the flag of each of the six from its operands before the write; the others by the frame of the
registers. -/
theorem sixInstructionsWriteTheFlag : Obligations.SixInstructionsWriteTheFlag := by
  unfold Obligations.SixInstructionsWriteTheFlag
  intro i s t hf ht
  cases (exec_of_faultOf_none hf).symm.trans ht
  refine ⟨?_, ?_, ?_, ?_, ?_, ?_, effect_keepsRegsBut_writtenRegs i s 15⟩
  · rintro x y rfl
    exact effect_addReg_flag x y s
  · rintro x y rfl
    exact effect_sub_flag x y s
  · rintro x y rfl
    exact effect_shr_flag_toNat x y s
  · rintro x y rfl
    exact effect_subn_flag x y s
  · rintro x y rfl
    exact effect_shl_flag_toNat x y s
  · rintro x y n rfl
    rw [effect_drw_turnsOff_iff, effect_drw_flag]
    exact ⟨fun hcoll => congrArg flagByte hcoll,
      fun hcoll => congrArg flagByte (Bool.eq_false_of_not_eq_true hcoll)⟩

/-- Settles O54: an instruction commutes with sampling an input that it does not read. -/
theorem inputsAreReadOnlyByTheirInstructions : Obligations.InputsAreReadOnlyByTheirInstructions := by
  unfold Obligations.InputsAreReadOnlyByTheirInstructions
  intro i s t keys keys' rnd rnd' ht
  refine ⟨fun hskp hsknp => ?_, fun hrnd => ?_⟩
  · exact exec_sampleInputs (s := s.sampleInputs keys rnd)
      ⟨fun x hx => absurd hx (hskp x), fun x hx => absurd hx (hsknp x), fun _ _ _ => rfl⟩ ht
  · exact exec_sampleInputs (s := s.sampleInputs keys rnd)
      ⟨fun _ _ => rfl, fun _ _ => rfl, fun x nn hx => absurd hx (hrnd x nn)⟩ ht

/-- Settles O58: a reachable state meets the invariant, every width bounds its register, and the ports show the fields
of their names. -/
theorem reachableStatesObeyTheStatedBounds : Obligations.ReachableStatesObeyTheStatedBounds := by
  unfold Obligations.ReachableStatesObeyTheStatedBounds
  constructor
  · intro s hs
    have hinv := hs.inv
    exact ⟨Nat.le_of_lt_succ s.sp.isLt, s.statusOut_toNat_le, hinv.codeIffHalt, hinv.pcBound,
      fun r => Nat.le_of_lt_succ (s.reg r).isLt, Nat.le_of_lt_succ s.dt.isLt, Nat.le_of_lt_succ s.st.isLt,
      Nat.le_of_lt_succ s.i.isLt, step_halted⟩
  · intro s
    refine ⟨fun h => ?_, fun h => ?_, fun h => ?_, rfl, fun _ _ => rfl⟩ <;> rw [State.statusOut, h]

/-- Settles O13: the fields of the reset state, and a Memory that lists nothing. -/
theorem resetStateHasTheStatedValues : Obligations.ResetStateHasTheStatedValues := by
  unfold Obligations.ResetStateHasTheStatedValues
  refine ⟨fun r => ?_, rfl, rfl, rfl, fun j => ?_, rfl, rfl, fun x y => ?_, rfl, rfl, rfl, rfl, rfl, fun _ => rfl⟩
  · simp [State.reg, State.reset]
  · simp [State.reset]
  · simp [State.pixel, State.reset]

end Sys2Proof.Machine
end

section
/-! The memory's statement (20_memory): the fetched word as arithmetic on its two bytes. -/
namespace Sys2Proof.Machine

/-- Two bytes put together, high byte first, as a number (R58). -/
theorem wordOf_toNat (hi lo : Byte) : (wordOf hi lo).toNat = 256 * hi.toNat + lo.toNat :=
  calc (wordOf hi lo).toNat
    _ = hi.toNat <<< 8 ||| lo.toNat := BitVec.toNat_append hi lo
    _ = hi.toNat <<< 8 + lo.toNat := (Nat.shiftLeft_add_eq_or_of_lt lo.isLt hi.toNat).symm
    _ = 256 * hi.toNat + lo.toNat := by rw [Nat.shiftLeft_eq, Nat.mul_comm]

/-- Settles O10: a fetch puts its two bytes together, and the word is their number. -/
theorem fetchIsBigEndian : Obligations.FetchIsBigEndian := by
  unfold Obligations.FetchIsBigEndian
  exact fun s => wordOf_toNat (s.readByte s.pc.toNat) (s.readByte (s.pc.toNat + 1))

end Sys2Proof.Machine
end

section
/-!
SUPPORT. The decoder of 30_encoding R87, said once: which second-level decoder each family goes to, what a word that
decodes is made of, and which selectors are rejected. Round trips, the table of illegal words (R88) and the opcode map
(R90) follow from these.
-/
namespace Sys2Proof

/-! ### The fields as numbers (R81) -/

theorem fieldF_toNat (w : Word) : (fieldF w).toNat = w.toNat / 4096 := by
  have hw := w.isLt
  rw [fieldF, BitVec.extractLsb'_toNat, Nat.shiftRight_eq_div_pow]
  omega

theorem fieldN_toNat (w : Word) : (fieldN w).toNat = w.toNat % 16 := BitVec.extractLsb'_toNat ..

theorem fieldNN_toNat (w : Word) : (fieldNN w).toNat = w.toNat % 256 := BitVec.extractLsb'_toNat ..

/-! ### A word from its family and its selector -/

theorem formatA_of_fieldF {w : Word} {f : Nibble} (hF : fieldF w = f) : formatA f (fieldNNN w) = w := by
  rw [← hF, formatA_fields]

theorem formatXI_of_fields {w : Word} {f : Nibble} {nn : Byte} (hF : fieldF w = f) (hNN : fieldNN w = nn) :
    formatXI f (fieldX w) nn = w := by
  rw [← hF, ← hNN, formatXI_fields]

theorem formatXYN_of_fields {w : Word} {f n : Nibble} (hF : fieldF w = f) (hN : fieldN w = n) :
    formatXYN f (fieldX w) (fieldY w) n = w := by
  rw [← hF, ← hN, formatXYN_fields]

/-! ### The families with a second level -/

theorem decode_zero {w : Word} (policy : Config.SysPolicy) (h : fieldF w = 0x0) :
    decode policy w = decodeZero policy w := by
  unfold decode; rw [h]; rfl

theorem decode_alu {w : Word} (policy : Config.SysPolicy) (h : fieldF w = 0x8) : decode policy w = decodeAlu w := by
  unfold decode; rw [h]; rfl

theorem decode_key {w : Word} (policy : Config.SysPolicy) (h : fieldF w = 0xE) : decode policy w = decodeKey w := by
  unfold decode; rw [h]; rfl

theorem decode_misc {w : Word} (policy : Config.SysPolicy) (h : fieldF w = 0xF) : decode policy w = decodeMisc w := by
  unfold decode; rw [h]; rfl

theorem decodeZero_nop {w : Word} (hcls : w ≠ 0x00E0) (hret : w ≠ 0x00EE) :
    decodeZero .nop w = .ok (.sys (fieldNNN w)) :=
  (if_neg hcls).trans (if_neg hret)

/-- Four families have a second level; a word of another family always decodes, and is made of the fields it decodes
to. -/
theorem decode_cases (policy : Config.SysPolicy) (w : Word) :
    (fieldF w = 0x0 ∧ decode policy w = decodeZero policy w) ∨
    (fieldF w = 0x8 ∧ decode policy w = decodeAlu w) ∨
    (fieldF w = 0xE ∧ decode policy w = decodeKey w) ∨
    (fieldF w = 0xF ∧ decode policy w = decodeMisc w) ∨
    ((fieldF w ≠ 0x0 ∧ fieldF w ≠ 0x8 ∧ fieldF w ≠ 0xE ∧ fieldF w ≠ 0xF) ∧
      ∃ i, decode policy w = .ok i ∧ i.wf = true ∧ encode i = w) := by
  by_cases h0 : fieldF w = 0x0
  · exact .inl ⟨h0, decode_zero policy h0⟩
  by_cases h8 : fieldF w = 0x8
  · exact .inr (.inl ⟨h8, decode_alu policy h8⟩)
  by_cases hE : fieldF w = 0xE
  · exact .inr (.inr (.inl ⟨hE, decode_key policy hE⟩))
  by_cases hF : fieldF w = 0xF
  · exact .inr (.inr (.inr (.inl ⟨hF, decode_misc policy hF⟩)))
  refine .inr (.inr (.inr (.inr ⟨⟨h0, h8, hE, hF⟩, ?_⟩)))
  unfold decode
  split
  case h_1 h => exact absurd h h0
  case h_9 h => exact absurd h h8
  case h_15 h => exact absurd h hE
  case h_2 h | h_3 h | h_11 h | h_12 h => exact ⟨_, rfl, rfl, formatA_of_fieldF h⟩
  case h_4 h | h_5 h | h_7 h | h_8 h | h_13 h => exact ⟨_, rfl, rfl, formatXI_of_fields h rfl⟩
  case h_6 h | h_10 h | h_14 h => exact ⟨_, rfl, rfl, formatXYN_of_fields h rfl⟩
  case h_16 =>
    exfalso
    generalize fieldF w = f at *
    revert f
    decide

/-! ### The word of a decoded instruction -/

theorem wf_and_encode_of_decodeZero {policy : Config.SysPolicy} {w : Word} {i : Instr} (hF : fieldF w = 0x0)
    (h : decodeZero policy w = .ok i) : i.wf = true ∧ encode i = w := by
  unfold decodeZero at h
  split_ifs at h with hcls hret
  · cases h; exact ⟨rfl, hcls.symm⟩
  · cases h; exact ⟨rfl, hret.symm⟩
  · cases policy <;> cases h
    have hw : formatA 0x0 (fieldNNN w) = w := formatA_of_fieldF hF
    have hne : fieldNNN w ≠ 0x0E0 ∧ fieldNNN w ≠ 0x0EE :=
      ⟨fun he => hcls (hw.symm.trans (congrArg _ he)), fun he => hret (hw.symm.trans (congrArg _ he))⟩
    exact ⟨by simpa [Instr.wf] using hne, hw⟩

theorem wf_and_encode_of_decodeAlu {w : Word} {i : Instr} (hF : fieldF w = 0x8) (h : decodeAlu w = .ok i) :
    i.wf = true ∧ encode i = w := by
  unfold decodeAlu at h
  split at h <;> cases h
  all_goals
    next hN => exact ⟨rfl, formatXYN_of_fields hF hN⟩

theorem wf_and_encode_of_decodeKey {w : Word} {i : Instr} (hF : fieldF w = 0xE) (h : decodeKey w = .ok i) :
    i.wf = true ∧ encode i = w := by
  unfold decodeKey at h
  split at h <;> cases h
  all_goals
    next hNN => exact ⟨rfl, formatXI_of_fields hF hNN⟩

theorem wf_and_encode_of_decodeMisc {w : Word} {i : Instr} (hF : fieldF w = 0xF) (h : decodeMisc w = .ok i) :
    i.wf = true ∧ encode i = w := by
  unfold decodeMisc at h
  split at h <;> cases h
  all_goals
    next hNN => exact ⟨rfl, formatXI_of_fields hF hNN⟩

/-- No bit of a legal word is dropped: family, selector and operand fields make up the word. -/
theorem wf_and_encode_of_decode {policy : Config.SysPolicy} {w : Word} {i : Instr} (h : decode policy w = .ok i) :
    i.wf = true ∧ encode i = w := by
  obtain ⟨hF, hd⟩ | ⟨hF, hd⟩ | ⟨hF, hd⟩ | ⟨hF, hd⟩ | ⟨-, j, hd, hj⟩ := decode_cases policy w <;> rw [hd] at h
  · exact wf_and_encode_of_decodeZero hF h
  · exact wf_and_encode_of_decodeAlu hF h
  · exact wf_and_encode_of_decodeKey hF h
  · exact wf_and_encode_of_decodeMisc hF h
  · cases h; exact hj

/-! ### The instruction of an encoded word -/

/-- A well-formed SYS has neither the word of CLS nor that of RET (R110). -/
theorem encode_sys_ne {nnn : Addr} (h : (Instr.sys nnn).wf = true) :
    encode (.sys nnn) ≠ 0x00E0 ∧ encode (.sys nnn) ≠ 0x00EE := by
  have hne : nnn ≠ 0x0E0 ∧ nnn ≠ 0x0EE := by simpa [Instr.wf] using h
  have hfield : fieldNNN (encode (.sys nnn)) = nnn := (fields_formatA 0x0 nnn).2
  exact ⟨fun he => hne.1 (hfield.symm.trans (congrArg fieldNNN he)),
    fun he => hne.2 (hfield.symm.trans (congrArg fieldNNN he))⟩

/-- The decoder reads back the fields that the instruction's format was built from. -/
theorem decode_encode {policy : Config.SysPolicy} {i : Instr} (hwf : i.wf = true)
    (hsys : policy = .nop ∨ ∀ nnn, i ≠ .sys nnn) : decode policy (encode i) = .ok i := by
  cases i with
  | cls | ret => rfl
  | sys nnn =>
    obtain ⟨hcls, hret⟩ := encode_sys_ne hwf
    obtain ⟨hF, hNNN⟩ := fields_formatA 0x0 nnn
    obtain rfl : policy = .nop := hsys.resolve_right fun h => h nnn rfl
    calc decode .nop (encode (.sys nnn))
      _ = decodeZero .nop (encode (.sys nnn)) := decode_zero .nop hF
      _ = .ok (.sys (fieldNNN (encode (.sys nnn)))) := decodeZero_nop hcls hret
      _ = .ok (.sys nnn) := congrArg (fun n => Except.ok (Instr.sys n)) hNNN
  | jp | call | ldI | jpV0 => simp [encode, decode, fields_formatA]
  | seImm | sneImm | ldImm | addImm | rnd => simp [encode, decode, fields_formatXI]
  | seReg | sneReg | drw => simp [encode, decode, fields_formatXYN]
  | ldReg | orReg | andReg | xorReg | addReg | sub | shr | subn | shl =>
    simp [encode, decode_alu, decodeAlu, fields_formatXYN]
  | skp | sknp => simp [encode, decode_key, decodeKey, fields_formatXI]
  | ldVxDt | ldVxK | ldDtVx | ldStVx | addIVx | ldFVx | ldBVx | ldMemVx | ldVxMem =>
    simp [encode, decode_misc, decodeMisc, fields_formatXI]

/-! ### The rejected selectors (R88) -/

theorem decodeZero_error_iff {policy : Config.SysPolicy} {w : Word} :
    (∃ e, decodeZero policy w = .error e) ↔ w ≠ 0x00E0 ∧ w ≠ 0x00EE ∧ policy = .fatal := by
  unfold decodeZero
  split_ifs with hcls hret
  · simp [hcls]
  · simp [hret]
  · cases policy <;> simp [hcls, hret]

theorem decodeAlu_error_iff {w : Word} :
    (∃ e, decodeAlu w = .error e) ↔ (fieldN w).toNat ∈ [0x8, 0x9, 0xA, 0xB, 0xC, 0xD, 0xF] := by
  unfold decodeAlu
  split
  case h_10 =>
    generalize fieldN w = n at *
    refine iff_of_true ⟨_, rfl⟩ ?_
    revert n
    decide
  all_goals
    next hN => simp [hN]

theorem decodeKey_error_iff {w : Word} : (∃ e, decodeKey w = .error e) ↔ (fieldNN w).toNat ∉ [0x9E, 0xA1] := by
  unfold decodeKey
  split
  case h_3 => simp_all [BitVec.toNat_eq]
  all_goals
    next hNN => simp [hNN]

theorem decodeMisc_error_iff {w : Word} :
    (∃ e, decodeMisc w = .error e) ↔
      (fieldNN w).toNat ∉ [0x07, 0x0A, 0x15, 0x18, 0x1E, 0x29, 0x33, 0x55, 0x65] := by
  unfold decodeMisc
  split
  case h_10 => simp_all [BitVec.toNat_eq]
  all_goals
    next hNN => simp [hNN]

/-! ### The opcode map (R90) -/

/-- A row's mask keeps the whole family, so a word that matches the row has the family of its match. -/
theorem fieldF_of_masked {w mask v : Word} (h : w &&& mask = v) (hmask : fieldF mask = 0xF) : fieldF w = fieldF v :=
  calc fieldF w
    _ = fieldF w &&& fieldF mask := by rw [hmask]; exact BitVec.and_allOnes.symm
    _ = fieldF v := BitVec.extractLsb'_and.symm.trans (congrArg fieldF h)

theorem fieldN_of_masked {w mask v : Word} (h : w &&& mask = v) (hmask : fieldN mask = 0xF) : fieldN w = fieldN v :=
  calc fieldN w
    _ = fieldN w &&& fieldN mask := by rw [hmask]; exact BitVec.and_allOnes.symm
    _ = fieldN v := BitVec.extractLsb'_and.symm.trans (congrArg fieldN h)

theorem fieldNN_of_masked {w mask v : Word} (h : w &&& mask = v) (hmask : fieldNN mask = 0xFF) :
    fieldNN w = fieldNN v :=
  calc fieldNN w
    _ = fieldNN w &&& fieldNN mask := by rw [hmask]; exact BitVec.and_allOnes.symm
    _ = fieldNN v := BitVec.extractLsb'_and.symm.trans (congrArg fieldNN h)

/-- A word lies in the row of the instruction it decodes to. -/
theorem row_match_of_decode {policy : Config.SysPolicy} {w : Word} {i : Instr} (h : decode policy w = .ok i) :
    w &&& i.row.1 = i.row.2 := by
  rw [← (wf_and_encode_of_decode h).2]
  cases i with
  | cls | ret => rfl
  | sys | jp | call | ldI | jpV0 => exact (Laws.formatA_family ..).trans rfl
  | seImm | sneImm | ldImm | addImm | rnd => exact (Laws.formatXI_family ..).trans rfl
  | seReg | sneReg | drw => exact (Laws.formatXYN_family ..).trans rfl
  | ldReg | orReg | andReg | xorReg | addReg | sub | shr | subn | shl => exact (Laws.formatXYN_selector ..).trans rfl
  | skp | sknp | ldVxDt | ldVxK | ldDtVx | ldStVx | addIVx | ldFVx | ldBVx | ldMemVx | ldVxMem =>
    exact (Laws.formatXI_selector ..).trans rfl

/-- Rows overlap only in the words of CLS and RET, which SYS's row also holds: any other word in a row decodes to an
instruction of that row. -/
theorem decode_of_row_match {w : Word} (hcls : w ≠ 0x00E0) (hret : w ≠ 0x00EE) {i : Instr}
    (h : w &&& i.row.1 = i.row.2) : ∃ j, decode .nop w = .ok j ∧ j.row = i.row := by
  cases i with (dsimp only [Instr.row] at h ⊢)
  | cls => exact absurd (BitVec.and_allOnes.symm.trans h) hcls
  | ret => exact absurd (BitVec.and_allOnes.symm.trans h) hret
  | sys =>
    rw [decode_zero .nop (fieldF_of_masked h rfl), decodeZero_nop hcls hret]
    exact ⟨_, rfl, rfl⟩
  | jp | call | seImm | sneImm | seReg | ldImm | addImm | sneReg | ldI | jpV0 | rnd | drw =>
    rw [decode, fieldF_of_masked h rfl]
    exact ⟨_, rfl, rfl⟩
  | ldReg | orReg | andReg | xorReg | addReg | sub | shr | subn | shl =>
    rw [decode_alu .nop (fieldF_of_masked h rfl), decodeAlu, fieldN_of_masked h rfl]
    exact ⟨_, rfl, rfl⟩
  | skp | sknp =>
    rw [decode_key .nop (fieldF_of_masked h rfl), decodeKey, fieldNN_of_masked h rfl]
    exact ⟨_, rfl, rfl⟩
  | ldVxDt | ldVxK | ldDtVx | ldStVx | addIVx | ldFVx | ldBVx | ldMemVx | ldVxMem =>
    rw [decode_misc .nop (fieldF_of_masked h rfl), decodeMisc, fieldNN_of_masked h rfl]
    exact ⟨_, rfl, rfl⟩

theorem row_mem_opcodeMap (i : Instr) : i.row ∈ opcodeMap := by
  cases i <;> simp [opcodeMap, Instr.row]

theorem exists_row_of_mem_opcodeMap {r : Word × Word} (h : r ∈ opcodeMap) : ∃ i : Instr, i.row = r := by
  simp only [opcodeMap, List.mem_append, List.mem_map] at h
  obtain ((⟨i, -, hi⟩ | ⟨i, -, hi⟩) | ⟨i, -, hi⟩) | ⟨i, -, hi⟩ := h <;> exact ⟨i, hi⟩

theorem decode_of_mem_opcodeMap {w : Word} (hcls : w ≠ 0x00E0) (hret : w ≠ 0x00EE) {r : Word × Word}
    (hr : r ∈ opcodeMap) (h : w &&& r.1 = r.2) : ∃ i, decode .nop w = .ok i ∧ i.row = r := by
  obtain ⟨j, rfl⟩ := exists_row_of_mem_opcodeMap hr
  exact decode_of_row_match hcls hret h

theorem find?_eq_some_of_unique {α : Type} {l : List α} {p : α → Bool} {r : α} (hmem : r ∈ l) (hr : p r = true)
    (hunique : ∀ r' ∈ l, p r' = true → r' = r) : l.find? p = some r := by
  obtain ⟨r', hr'⟩ := Option.isSome_iff_exists.mp (List.find?_isSome.mpr ⟨r, hmem, hr⟩)
  rw [hr', hunique r' (List.mem_of_find?_eq_some hr') (List.find?_some hr')]

end Sys2Proof
end

section
/-!
SUPPORT. The Step event (30_encoding R85) on the state it happens in: `cpuStep`'s cases speak of the state whose inputs
are sampled, which fetches the same word.
-/
namespace Sys2Proof.Machine

theorem decode_of_decodeBytes {policy : Config.SysPolicy} {hi lo : Byte} {i : Instr}
    (h : decodeBytes policy [hi, lo] = .ok (i, [])) : decode policy (wordOf hi lo) = .ok i := by
  simp only [decodeBytes] at h
  cases hd : decode policy (wordOf hi lo) <;> rw [hd] at h <;> cases h
  rfl

theorem State.eq_fetchWord {s : State} {w : Word}
    (h : w.toNat = 256 * (s.readByte s.pc.toNat).toNat + (s.readByte (s.pc.toNat + 1)).toNat) : w = s.fetchWord :=
  BitVec.eq_of_toNat_eq (h.trans (wordOf_toNat ..).symm)

theorem State.KeepsAllBut.mono {s t : State} {changed changed' : List Part} (h : s.KeepsAllBut t changed)
    (hsub : changed ⊆ changed') : s.KeepsAllBut t changed' :=
  fun p hp => h p fun hmem => hp (hsub hmem)

section
variable {s : State} (keys : BitVec 16) (rnd : Byte)

theorem perform_step_idle (h : s.status ≠ .running) :
    perform (.step keys rnd) s = .next (s.sampleInputs keys rnd) :=
  cpuStep_idle (s := s.sampleInputs keys rnd) h

theorem perform_step_fetchFault (h : s.status = .running) (hpc : 4095 ≤ s.pc.toNat) :
    perform (.step keys rnd) s = .next ((s.sampleInputs keys rnd).raise .addressRangeError 0x0000#16) :=
  cpuStep_fetchFault (s := s.sampleInputs keys rnd) h hpc

theorem perform_step_decodeFault {e : DecodeReject} (h : s.status = .running) (hpc : s.pc.toNat + 1 ≤ 4095)
    (hd : decode s.params.sysPolicy s.fetchWord = .error e) :
    perform (.step keys rnd) s = .next ((s.sampleInputs keys rnd).raise .decodeError s.fetchWord) :=
  cpuStep_decodeFault (s := s.sampleInputs keys rnd) h (Nat.le_of_succ_le_succ hpc) hd

theorem perform_step_exec {i : Instr} (h : s.status = .running) (hpc : s.pc.toNat + 1 ≤ 4095)
    (hd : decode s.params.sysPolicy s.fetchWord = .ok i) :
    perform (.step keys rnd) s = exec i (s.sampleInputs keys rnd) :=
  cpuStep_exec (s := s.sampleInputs keys rnd) h (Nat.le_of_succ_le_succ hpc) hd

end

end Sys2Proof.Machine
end

section
/-! The statements about the encoding and the Step event (30_encoding), each from the lemmas above. -/
namespace Sys2Proof.Machine

/-- Settles O2: one case per format and second level. -/
theorem decodeOfEncodeIsTheInstruction : Obligations.DecodeOfEncodeIsTheInstruction := by
  unfold Obligations.DecodeOfEncodeIsTheInstruction
  exact fun _ _ => decode_encode

/-- Settles O3: a word is made of the family, the selector and the fields it decodes by. -/
theorem encodeOfDecodedWordIsTheWord : Obligations.EncodeOfDecodedWordIsTheWord := by
  unfold Obligations.EncodeOfDecodedWordIsTheWord
  exact fun _ _ _ => wf_and_encode_of_decode

/-- Settles O4: each of the four families with a second level rejects its row of the table, the others nothing. -/
theorem illegalWordsAreExactlyTheListedOnes : Obligations.IllegalWordsAreExactlyTheListedOnes := by
  unfold Obligations.IllegalWordsAreExactlyTheListedOnes
  intro policy w
  rw [← fieldF_toNat, ← fieldN_toNat, ← fieldNN_toNat]
  obtain ⟨hF, hd⟩ | ⟨hF, hd⟩ | ⟨hF, hd⟩ | ⟨hF, hd⟩ | ⟨hF, i, hd, -⟩ := decode_cases policy w <;> rw [hd]
  · rw [decodeZero_error_iff]; simp [hF, BitVec.toNat_eq]
  · rw [decodeAlu_error_iff]; simp [hF]
  · rw [decodeKey_error_iff]; simp [hF]
  · rw [decodeMisc_error_iff]; simp [hF]
  · simp only [ne_eq, BitVec.toNat_eq] at hF
    simp_all

/-- Settles O5: the words of CLS and RET find their own rows first; any other word lies in one row at most. -/
theorem decodesToTheFirstMatchingRow : Obligations.DecodesToTheFirstMatchingRow := by
  unfold Obligations.DecodesToTheFirstMatchingRow
  intro w
  by_cases hword : w = 0x00E0 ∨ w = 0x00EE
  · obtain rfl | rfl := hword <;> exact ⟨fun i h => by cases h; decide, fun e h => by cases h⟩
  obtain ⟨hcls, hret⟩ := not_or.mp hword
  constructor
  · intro i h
    refine find?_eq_some_of_unique (row_mem_opcodeMap i) (decide_eq_true (row_match_of_decode h)) fun r hr hmatch => ?_
    obtain ⟨j, hj, hrow⟩ := decode_of_mem_opcodeMap hcls hret hr (of_decide_eq_true hmatch)
    cases h.symm.trans hj
    exact hrow.symm
  · intro e h
    refine List.find?_eq_none.mpr fun r hr hmatch => ?_
    obtain ⟨j, hj, -⟩ := decode_of_mem_opcodeMap hcls hret hr (of_decide_eq_true hmatch)
    cases h.symm.trans hj

/-- Settles O1: the decoder evaluated on the thirteen words. -/
theorem decodesWordsWrittenFromTheTable : Obligations.DecodesWordsWrittenFromTheTable := by
  unfold Obligations.DecodesWordsWrittenFromTheTable
  decide

/-- Settles O6: the bytes at the pc are the fetched word, and taking an event changes the environment's side only. -/
theorem stepRunsTheDecodedInstruction : Obligations.StepRunsTheDecodedInstruction := by
  unfold Obligations.StepRunsTheDecodedInstruction
  intro s i hrun hpc hbytes
  have hd : decode s.params.sysPolicy s.fetchWord = .ok i := decode_of_decodeBytes hbytes
  constructor
  · intro keys rnd rest hp
    rw [(step_of_takeEvent (State.takeEvent_nonempty hp)).2]
    exact perform_step_exec keys rnd hrun hpc hd
  · intro keys rnd u hu
    have hkeeps : s.KeepsAllBut u [.env] := by simpa only [hu] using s.takeEvent_keeps
    have henv : u = { s with env := u.env } := by simpa only [hu] using s.takeEvent_eq
    refine ⟨hkeeps, ?_⟩
    rw [(step_of_takeEvent hu).2, henv]
    exact perform_step_exec keys rnd hrun hpc hd

/-- Settles O8: one clause for each case of the Step event. -/
theorem stepEventFetchesDecodesExecutes : Obligations.StepEventFetchesDecodesExecutes := by
  unfold Obligations.StepEventFetchesDecodesExecutes
  rintro s keys rnd u rfl
  refine ⟨fun hs => ?_, fun hs => ?_, fun hs hpc => ?_, fun hs hpc w hw => ?_⟩
  · exact perform_step_idle keys rnd (by simp [hs])
  · exact perform_step_idle keys rnd (by simp [hs])
  · exact ⟨_, perform_step_fetchFault keys rnd hs (Nat.le_of_lt_succ hpc), State.raise_entered ..⟩
  · obtain rfl := State.eq_fetchWord hw
    exact ⟨fun e hd => ⟨_, perform_step_decodeFault keys rnd hs hpc hd, State.raise_entered ..⟩,
      fun i hd => perform_step_exec keys rnd hs hpc hd⟩

/-- Settles O9: the fetch fault's entry, on the state with the inputs sampled. -/
theorem fetchBeyondMemoryFaults : Obligations.FetchBeyondMemoryFaults := by
  unfold Obligations.FetchBeyondMemoryFaults
  intro s keys rnd hs hpc
  obtain ⟨hcode, hfpc, hword, hstatus, hkeeps⟩ :=
    (s.sampleInputs keys rnd).raise_entered .addressRangeError 0x0000#16
  exact ⟨_, perform_step_fetchFault keys rnd hs hpc, hstatus, hcode, hfpc, hword,
    ((s.keepsAllBut_env _).mono (by simp)).trans (hkeeps.mono (by simp))⟩

end Sys2Proof.Machine
end

section
/-!
SUPPORT. Control transfer (40_flow): the word of a format A instruction as a number, the two ways an instruction answers
that the table of faults tells apart, and the stack entry that a RET takes.
-/
namespace Sys2Proof

/-- R82: the family over the address, as a number. -/
theorem formatA_eq_ofNat (f : Nibble) (nnn : Addr) : formatA f nnn = BitVec.ofNat 16 (4096 * f.toNat + nnn.toNat) := by
  have hlt : 4096 * f.toNat + nnn.toNat < 2 ^ 16 := by omega
  refine BitVec.eq_of_toNat_eq ?_
  calc (formatA f nnn).toNat
    _ = f.toNat <<< 12 ||| nnn.toNat := BitVec.toNat_append f nnn
    _ = f.toNat <<< 12 + nnn.toNat := (Nat.shiftLeft_add_eq_or_of_lt nnn.isLt f.toNat).symm
    _ = 4096 * f.toNat + nnn.toNat := by rw [Nat.shiftLeft_eq, Nat.mul_comm]
    _ = (BitVec.ofNat 16 (4096 * f.toNat + nnn.toNat)).toNat := by rw [BitVec.toNat_ofNat, Nat.mod_eq_of_lt hlt]

namespace Machine

/-- An instruction in a row of the table of faults (R198) enters that fault (R200) with its own word. -/
theorem exec_enters_fault {i : Instr} {s : State} {e : Fault} (h : faultOf i s = some e) :
    ∃ t, exec i s = .next t ∧ FaultEntered s t e.code (encode i) :=
  ⟨_, exec_of_faultOf_some h, s.raise_entered e (encode i)⟩

theorem State.top_eq {s : State} {j : Fin 16} (h : s.sp.val = j.val + 1) : s.top = s.stk[j] := by
  have hindex : Fin.ofNat 16 (s.sp.val - 1) = j := by rw [h, Nat.add_sub_cancel, Fin.ofNat_val_eq_self]
  simp only [State.top, hindex]

end Machine

end Sys2Proof
end

section
/-! The statements about control transfer (40_flow), each from the fault or the effect of its instruction. -/
namespace Sys2Proof.Machine

/-- Settles O16: the policy decides between the effect of SYS and its fault. -/
theorem sysIsNopOrDecodeError : Obligations.SysIsNopOrDecodeError := by
  unfold Obligations.SysIsNopOrDecodeError
  intro nnn s
  constructor
  · intro hnop
    have hf : faultOf (.sys nnn) s = none := if_neg (by simp [hnop])
    exact ⟨_, exec_of_faultOf_none hf, rfl, effect_keepsAllBut_writtenParts (.sys nnn) s⟩
  · intro hfatal
    have hword : encode (.sys nnn) = BitVec.ofNat 16 nnn.toNat := by simp [encode, formatA_eq_ofNat]
    exact hword ▸ exec_enters_fault (i := .sys nnn) (if_pos hfatal)

/-- Settles O17: widening the target keeps its number. -/
theorem jumpLoadsTheTarget : Obligations.JumpLoadsTheTarget := by
  unfold Obligations.JumpLoadsTheTarget
  exact fun nnn s => ⟨_, exec_of_faultOf_none (i := .jp nnn) rfl, addrWord_toNat nnn,
    effect_keepsAllBut_writtenParts (.jp nnn) s⟩

/-- Settles O18: the fault of a full stack, or the push and the jump. -/
theorem callPushesTheNextAddress : Obligations.CallPushesTheNextAddress := by
  unfold Obligations.CallPushesTheNextAddress
  intro nnn s
  constructor
  · intro hfull
    have hword : encode (.call nnn) = BitVec.ofNat 16 (0x2000 + nnn.toNat) := by simp [encode, formatA_eq_ofNat]
    exact hword ▸ exec_enters_fault (i := .call nnn) (if_pos hfull)
  · intro hroom
    have hf : faultOf (.call nnn) s = none := if_neg hroom
    exact ⟨_, exec_of_faultOf_none hf, addrWord_toNat nnn, s.push_sp_val (s.pc + 2) (by omega),
      s.push_stk_getElem (s.pc + 2), effect_keepsAllBut_writtenParts (.call nnn) s⟩

/-- Settles O19: the fault of an empty stack, or the jump to the top entry and the pop. -/
theorem returnPopsTheStack : Obligations.ReturnPopsTheStack := by
  unfold Obligations.ReturnPopsTheStack
  intro s
  constructor
  · intro hempty
    exact exec_enters_fault (i := .ret) (if_pos hempty)
  · intro j hj
    have hf : faultOf .ret s = none := if_neg (by omega)
    have hsp : s.pop.sp.val = j.val := by rw [State.pop_sp_val, hj, Nat.add_sub_cancel]
    exact ⟨_, exec_of_faultOf_none hf, State.top_eq hj, hsp, rfl, effect_keepsAllBut_writtenParts .ret s⟩

/-- Settles O20: the sum of the target and the offset fits 16 bits. -/
theorem jumpWithOffsetAddsRegisterZero : Obligations.JumpWithOffsetAddsRegisterZero := by
  unfold Obligations.JumpWithOffsetAddsRegisterZero
  exact fun nnn s => ⟨_, exec_of_faultOf_none (i := .jpV0 nnn) rfl, addrWord_add_byteWord_toNat nnn (s.reg 0),
    effect_keepsAllBut_writtenParts (.jpV0 nnn) s⟩

/-- Settles O21: the RET pops entry `j`, the depth before the call, which is the entry the CALL pushed. -/
theorem callThenReturnResumesAfterTheCall : Obligations.CallThenReturnResumesAfterTheCall := by
  unfold Obligations.CallThenReturnResumesAfterTheCall
  intro nnn s t u hroom hcall husp hustk
  obtain ⟨t', ht', -, htsp, htstk, -⟩ := (callPushesTheNextAddress nnn s).2 hroom
  cases hcall.symm.trans ht'
  obtain ⟨j, hj⟩ : ∃ j : Fin 16, j.val = s.sp.val := ⟨⟨s.sp.val, by omega⟩, rfl⟩
  obtain ⟨v, hret, hvpc, hvsp, hvstk, hkeeps⟩ := (returnPopsTheStack u).2 j (by rw [husp, htsp, hj])
  refine ⟨v, hret, ?_, Fin.ext (hvsp.trans hj), fun k hk => ?_, hkeeps⟩
  · rw [hvpc, hustk, htstk, if_pos hj]
  · rw [hvstk, hustk, htstk, if_neg hk.ne]

end Sys2Proof.Machine
end

section
/-!
SUPPORT. Skips (41_skip): the word of a format XI instruction as a number, and what a skip that does not fault answers,
once for skipping where a condition holds and once for skipping where it fails.
-/
namespace Sys2Proof

/-- R82: the number that family and byte make, with the register's digit between them. -/
theorem formatXI_eq_ofNat (f x : Nibble) (nn : Byte) :
    formatXI f x nn = BitVec.ofNat 16 (4096 * f.toNat + nn.toNat + 256 * x.toNat) := by
  have hlow : (x ++ nn).toNat = nn.toNat + 256 * x.toNat := by
    rw [BitVec.toNat_append, ← Nat.shiftLeft_add_eq_or_of_lt nn.isLt, Nat.shiftLeft_eq]
    omega
  calc formatXI f x nn
    _ = formatA f (x ++ nn) := BitVec.append_assoc
    _ = BitVec.ofNat 16 (4096 * f.toNat + (x ++ nn).toNat) := formatA_eq_ofNat f (x ++ nn)
    _ = BitVec.ofNat 16 (4096 * f.toNat + nn.toNat + 256 * x.toNat) := by rw [hlow, Nat.add_assoc]

namespace Machine

section
variable {i : Instr} {s : State} {c : Bool} {p : Prop} [Decidable p]

/-- R119: where the skip is taken exactly if `p` holds, `p` chooses the step of the `pc`, and nothing else changes. -/
theorem exec_skips_if (hf : faultOf i s = none) (heffect : effect i s = s.skipIf c) (hc : c = true ↔ p) :
    ∃ t, exec i s = .next t ∧ t.pc = (if p then s.pc + 4 else s.pc + 2) ∧ s.KeepsAllBut t [.pc] := by
  refine ⟨s.skipIf c, heffect ▸ exec_of_faultOf_none hf, ?_, s.keepsAllBut_pc _⟩
  simp only [State.skipIf_pc, hc]

/-- The other way round: the skip is taken exactly if `p` fails. -/
theorem exec_skips_unless (hf : faultOf i s = none) (heffect : effect i s = s.skipIf c) (hc : c = true ↔ ¬ p) :
    ∃ t, exec i s = .next t ∧ t.pc = (if p then s.pc + 2 else s.pc + 4) ∧ s.KeepsAllBut t [.pc] := by
  simpa only [ite_not] using exec_skips_if hf heffect hc

end

end Machine

end Sys2Proof
end

section
/-! The statements about skips (41_skip), each from the condition its instruction tests. -/
namespace Sys2Proof.Machine

/-- Settles O22: equality with the immediate decides both skips. -/
theorem skipsComparingAnImmediate : Obligations.SkipsComparingAnImmediate := by
  unfold Obligations.SkipsComparingAnImmediate
  exact fun x nn s => ⟨exec_skips_if (i := .seImm x nn) rfl rfl decide_eq_true_iff,
    exec_skips_unless (i := .sneImm x nn) rfl rfl decide_eq_true_iff⟩

/-- Settles O23: equality of the two registers decides both skips; the low nibble is not looked at. -/
theorem skipsComparingRegisters : Obligations.SkipsComparingRegisters := by
  unfold Obligations.SkipsComparingRegisters
  exact fun x y n s => ⟨exec_skips_if (i := .seReg x y n) rfl rfl decide_eq_true_iff,
    exec_skips_unless (i := .sneReg x y n) rfl rfl decide_eq_true_iff⟩

/-- Settles O24: an index above 15 is the table's fault (R198), with the word of the instruction; any other index names
the key whose flag decides. -/
theorem skipsOnAKeyOrFaultsOnItsIndex : Obligations.SkipsOnAKeyOrFaultsOnItsIndex := by
  unfold Obligations.SkipsOnAKeyOrFaultsOnItsIndex
  intro x s
  constructor
  · intro hindex
    have hskp : encode (.skp x) = BitVec.ofNat 16 (0xE09E + 256 * x.toNat) := formatXI_eq_ofNat 0xE x 0x9E
    have hsknp : encode (.sknp x) = BitVec.ofNat 16 (0xE0A1 + 256 * x.toNat) := formatXI_eq_ofNat 0xE x 0xA1
    exact ⟨hskp ▸ exec_enters_fault (i := .skp x) (if_pos hindex),
      hsknp ▸ exec_enters_fault (i := .sknp x) (if_pos hindex)⟩
  · intro hindex
    have hnone : ¬ 15 < (s.reg x).toNat := Nat.not_lt.mpr hindex
    exact ⟨exec_skips_if (i := .skp x) (if_neg hnone) rfl Iff.rfl,
      exec_skips_unless (i := .sknp x) (if_neg hnone) rfl Bool.not_iff_not⟩

end Sys2Proof.Machine
end

section
/-!
SUPPORT. Immediate loads and random (42_load_imm): what an instruction answers whose effect is one register write.
-/
namespace Sys2Proof.Machine

/-- R39: a byte to one register, the `pc` to the next instruction, and nothing else; VF only as the destination. -/
theorem exec_writes_reg {i : Instr} {s : State} {x : Nibble} {b : Byte} (hf : faultOf i s = none)
    (heffect : effect i s = (s.writeReg x b).advance) :
    ∃ t, exec i s = .next t ∧ t.reg x = b ∧ t.pc = s.pc + 2 ∧ s.KeepsRegsBut t [x] ∧ s.KeepsAllBut t [.gpr, .pc] :=
  ⟨(s.writeReg x b).advance, heffect ▸ exec_of_faultOf_none hf, s.reg_writeReg_same x b, rfl,
    (s.keepsRegsBut_writeReg x b).advance, s.keepsAllBut_gpr_pc _ _⟩

end Sys2Proof.Machine
end

section
/-! The statements about immediate loads and random (42_load_imm), each from the value its instruction writes. -/
namespace Sys2Proof.Machine

/-- Settles O25: the byte written is the immediate. -/
theorem loadImmediateWritesTheByte : Obligations.LoadImmediateWritesTheByte := by
  unfold Obligations.LoadImmediateWritesTheByte
  exact fun x nn s => exec_writes_reg (i := .ldImm x nn) rfl rfl

/-- Settles O26: the sum of two bytes is their sum modulo 256. -/
theorem addImmediateWrapsWithoutFlag : Obligations.AddImmediateWrapsWithoutFlag := by
  unfold Obligations.AddImmediateWrapsWithoutFlag
  intro x nn s
  obtain ⟨t, hexec, hreg, hframe⟩ := exec_writes_reg (i := .addImm x nn) (s := s) rfl rfl
  exact ⟨t, hexec, hreg ▸ BitVec.toNat_add (s.reg x) nn, hframe⟩

/-- Settles O27: widening the address keeps its number. -/
theorem loadAddressRegisterWritesTheAddress : Obligations.LoadAddressRegisterWritesTheAddress := by
  unfold Obligations.LoadAddressRegisterWritesTheAddress
  exact fun nnn s => ⟨_, exec_of_faultOf_none (i := .ldI nnn) rfl, addrWord_toNat nnn, rfl,
    effect_keepsAllBut_writtenParts (.ldI nnn) s⟩

/-- Settles O28: each bit of a bitwise AND is the AND of the two bits. -/
theorem randomIsTheDrawMaskedByTheImmediate : Obligations.RandomIsTheDrawMaskedByTheImmediate := by
  unfold Obligations.RandomIsTheDrawMaskedByTheImmediate
  intro x nn s
  obtain ⟨t, hexec, hreg, hframe⟩ := exec_writes_reg (i := .rnd x nn) (s := s) rfl rfl
  exact ⟨t, hexec, fun _ => hreg ▸ BitVec.getLsbD_and, hframe⟩

end Sys2Proof.Machine
end

section
/-!
SUPPORT. The ALU family (43_alu): the numbers its results are, what an instruction answers whose effect is a register
write given bit by bit, and what one answers whose effect is a result and then a flag.
-/
namespace Sys2Proof.Machine

/-! ### The results as numbers -/

theorem sub_toNat (a b : Byte) : (a - b).toNat = (a.toNat + 256 - b.toNat) % 256 := by
  rw [BitVec.toNat_sub]
  omega

theorem shiftRight_one_toNat (b : Byte) : (b >>> 1).toNat = b.toNat / 2 := BitVec.toNat_ushiftRight b 1

theorem shiftLeft_one_toNat (b : Byte) : (b <<< 1).toNat = 2 * b.toNat % 256 := by
  rw [BitVec.toNat_shiftLeft, Nat.shiftLeft_eq, Nat.mul_comm]

/-! ### What an instruction answers -/

section
variable {i : Instr} {s : State} {x : Nibble} (hf : faultOf i s = none)
include hf

/-- R151: a byte given bit by bit is written to the destination alone, VF only where it is the destination. -/
theorem exec_writes_bits {b : Byte} {bit : Nat → Bool} (heffect : effect i s = (s.writeReg x b).advance)
    (hbit : ∀ k, b.getLsbD k = bit k) :
    ∃ t, exec i s = .next t ∧ (∀ k, (t.reg x).getLsbD k = bit k) ∧ t.pc = s.pc + 2 ∧ s.KeepsRegsBut t [x] ∧
      s.KeepsAllBut t [.gpr, .pc] := by
  obtain ⟨t, hexec, hreg, hframe⟩ := exec_writes_reg hf heffect
  exact ⟨t, hexec, hreg ▸ hbit, hframe⟩

/-- R141: the flag stands in VF, and the result in the destination unless that is VF. -/
theorem exec_writes_result_flag {b : Byte} {c : Bool} (heffect : effect i s = (s.writeResultFlag x b c).advance) :
    ∃ t, exec i s = .next t ∧ t.reg 15 = flagByte c ∧ (x ≠ 15 → t.reg x = b) ∧ t.pc = s.pc + 2 ∧
      s.KeepsRegsBut t [x, 15] ∧ s.KeepsAllBut t [.gpr, .pc] := by
  refine ⟨(s.writeResultFlag x b c).advance, heffect ▸ exec_of_faultOf_none hf, s.reg_flag_writeResultFlag x b c,
    fun hx => ?_, rfl, (s.keepsRegsBut_writeResultFlag x b c).advance, s.keepsAllBut_gpr_pc _ _⟩
  exact (s.reg_writeResultFlag x x b c).trans ((if_neg hx).trans (if_pos rfl))

/-- R147, R149: the difference of minuend and subtrahend, and its not-borrow. -/
theorem exec_writes_difference {minuend subtrahend : Byte}
    (heffect : effect i s = (s.writeResultFlag x (minuend - subtrahend) (notBorrow minuend subtrahend)).advance) :
    ∃ t, exec i s = .next t ∧ t.reg 15 = (if minuend.toNat ≥ subtrahend.toNat then 1 else 0) ∧
      (x ≠ 15 → (t.reg x).toNat = (minuend.toNat + 256 - subtrahend.toNat) % 256) ∧ t.pc = s.pc + 2 ∧
      s.KeepsRegsBut t [x, 15] ∧ s.KeepsAllBut t [.gpr, .pc] := by
  obtain ⟨t, hexec, hflag, hresult, hframe⟩ := exec_writes_result_flag hf heffect
  exact ⟨t, hexec, hflag.trans (flagByte_decide _), fun hx => hresult hx ▸ sub_toNat minuend subtrahend, hframe⟩

end

end Sys2Proof.Machine
end

section
/-! The statements about the ALU family (43_alu), each from the result and the flag its instruction writes. -/
namespace Sys2Proof.Machine

/-- Settles O29: the copy writes `V[Y]`; each bit of a bitwise operation is the operation on the two bits. -/
theorem copyAndLogicWriteOnlyTheDestination : Obligations.CopyAndLogicWriteOnlyTheDestination := by
  unfold Obligations.CopyAndLogicWriteOnlyTheDestination
  exact fun x y s => ⟨exec_writes_reg (i := .ldReg x y) rfl rfl,
    exec_writes_bits (i := .orReg x y) rfl rfl fun _ => BitVec.getLsbD_or,
    exec_writes_bits (i := .andReg x y) rfl rfl fun _ => BitVec.getLsbD_and,
    exec_writes_bits (i := .xorReg x y) rfl rfl fun _ => BitVec.getLsbD_xor⟩

/-- Settles O30: the sum of two bytes is their sum modulo 256, and the flag is its carry. -/
theorem addWritesSumThenCarry : Obligations.AddWritesSumThenCarry := by
  unfold Obligations.AddWritesSumThenCarry
  intro x y s
  obtain ⟨t, hexec, hflag, hresult, hframe⟩ := exec_writes_result_flag (i := .addReg x y) (s := s) rfl rfl
  exact ⟨t, hexec, hflag.trans (flagByte_decide _), fun hx => hresult hx ▸ BitVec.toNat_add (s.reg x) (s.reg y),
    hframe⟩

/-- Settles O31: the two subtractions are one operation with its operands exchanged. -/
theorem subtractsWriteDifferenceThenNotBorrow : Obligations.SubtractsWriteDifferenceThenNotBorrow := by
  unfold Obligations.SubtractsWriteDifferenceThenNotBorrow
  exact fun x y s => ⟨exec_writes_difference (i := .sub x y) rfl rfl, exec_writes_difference (i := .subn x y) rfl rfl⟩

/-- Settles O32: `b` is the model's shift operand; a shift by one halves or doubles it, and the flag is the bit that
leaves. -/
theorem shiftsWriteResultThenShiftedOutBit : Obligations.ShiftsWriteResultThenShiftedOutBit := by
  unfold Obligations.ShiftsWriteResultThenShiftedOutBit
  intro x y s b hb
  obtain rfl : b = s.shiftOperand x y := hb.trans (s.shiftOperand_eq x y).symm
  constructor
  · obtain ⟨t, hexec, hflag, hresult, hframe⟩ := exec_writes_result_flag (i := .shr x y) (s := s) rfl rfl
    exact ⟨t, hexec, hflag ▸ flagByte_shiftedOutRight_toNat _, fun hx => hresult hx ▸ shiftRight_one_toNat _, hframe⟩
  · obtain ⟨t, hexec, hflag, hresult, hframe⟩ := exec_writes_result_flag (i := .shl x y) (s := s) rfl rfl
    exact ⟨t, hexec, hflag ▸ flagByte_shiftedOutLeft_toNat _, fun hx => hresult hx ▸ shiftLeft_one_toNat _, hframe⟩

end Sys2Proof.Machine
end

section
/-!
SUPPORT. The display (44_display): the word of a format XYN instruction as a number, the pixels of a cleared display,
the flag of a draw, and that a draw which leaves its origin registers alone leaves its sprite alone.
-/
namespace Sys2Proof

/-- R82: the number that the family and the three digits after it make. -/
theorem formatXYN_eq_ofNat (f x y n : Nibble) :
    formatXYN f x y n = BitVec.ofNat 16 (4096 * f.toNat + 256 * x.toNat + 16 * y.toNat + n.toNat) := by
  have hlow : (y ++ n).toNat = 16 * y.toNat + n.toNat := by
    rw [BitVec.toNat_append, ← Nat.shiftLeft_add_eq_or_of_lt n.isLt, Nat.shiftLeft_eq, Nat.mul_comm]
  calc formatXYN f x y n
    _ = formatXI f x (y ++ n) := BitVec.append_assoc
    _ = BitVec.ofNat 16 (4096 * f.toNat + (y ++ n).toNat + 256 * x.toNat) := formatXI_eq_ofNat f x (y ++ n)
    _ = BitVec.ofNat 16 (4096 * f.toNat + 256 * x.toNat + 16 * y.toNat + n.toNat) := by rw [hlow]; congr 1; omega

namespace Machine

theorem effect_cls_pixel (s : State) (col : Fin 64) (row : Fin 32) : (effect .cls s).pixel col row = false := by
  simp [effect, State.pixel]

/-- R164: VF is 1 when a pixel under a 1 bit of the sprite was on. -/
theorem effect_drw_flag_of_collision {x y n : Nibble} {s : State}
    (h : ∃ col row, SpriteBit s x y n col row ∧ s.pixel col row = true) : (effect (.drw x y n) s).reg 15 = 1 := by
  rw [effect_drw_flag, (s.blit_collision_iff x y n).mpr h]
  rfl

/-- R164: VF is 0 when no pixel under a 1 bit of the sprite was on. -/
theorem effect_drw_flag_of_no_collision {x y n : Nibble} {s : State}
    (h : ¬ ∃ col row, SpriteBit s x y n col row ∧ s.pixel col row = true) : (effect (.drw x y n) s).reg 15 = 0 := by
  rw [effect_drw_flag, Bool.eq_false_of_not_eq_true (mt (s.blit_collision_iff x y n).mp h)]
  rfl

/-- The sprite depends on the origin registers, `I` and Memory alone. -/
theorem spriteBit_congr {s t : State} {x y : Nibble} (hx : t.reg x = s.reg x) (hy : t.reg y = s.reg y)
    (hi : t.i = s.i) (hmem : ∀ a, t.readByte a = s.readByte a) (n : Nibble) (col : Fin 64) (row : Fin 32) :
    SpriteBit t x y n col row ↔ SpriteBit s x y n col row := by
  simp only [SpriteBit, hx, hy, hi, hmem]

/-- The reset state with every pixel on. -/
def State.resetLit : State := { State.reset with d := Vector.replicate 32 (Vector.replicate 64 true) }

/-- A draw of the font's first byte on a lit display, and the same draw again: the second finds the pixels off. -/
theorem resetLit_second_draw_flag : (effect (.drw 0 0 1) (effect (.drw 0 0 1) State.resetLit)).reg 15 = 0 := by decide

end Machine

end Sys2Proof
end

section
/-! The statements about the display (44_display), each from the effect of its instruction. -/
namespace Sys2Proof.Machine

/-- Settles O34: the span fault of the table (R198), or the effect of a draw on the pixels and the flag. -/
theorem drawXorsTheWrappedSprite : Obligations.DrawXorsTheWrappedSprite := by
  unfold Obligations.DrawXorsTheWrappedSprite
  intro x y n s
  constructor
  · intro hspan
    have hword : encode (.drw x y n) = BitVec.ofNat 16 (0xD000 + 256 * x.toNat + 16 * y.toNat + n.toNat) :=
      formatXYN_eq_ofNat 0xD x y n
    exact hword ▸ exec_enters_fault (i := .drw x y n) (if_pos hspan)
  · intro hspan
    have hf : faultOf (.drw x y n) s = none := if_neg hspan
    exact ⟨_, exec_of_faultOf_none hf, fun _ _ => State.blit_pixel_of_spriteBit,
      fun _ _ => State.blit_pixel_of_not_spriteBit, effect_drw_flag_of_collision, effect_drw_flag_of_no_collision, rfl,
      effect_keepsRegsBut_writtenRegs (.drw x y n) s, effect_keepsAllBut_writtenParts (.drw x y n) s⟩

/-- Settles O35: both draws have the same sprite, so each of its pixels toggles twice; one that the first turned on is
on for the second. -/
theorem secondIdenticalDrawRestoresTheDisplay : Obligations.SecondIdenticalDrawRestoresTheDisplay := by
  unfold Obligations.SecondIdenticalDrawRestoresTheDisplay
  intro x y n s t hspan hexec hx hy
  obtain ⟨t', ht', htoggle, hkeep, -, -, -, -, hframe⟩ := (drawXorsTheWrappedSprite x y n s).2 hspan
  cases hexec.symm.trans ht'
  have hi : t.i = s.i := hframe .addressReg (by decide)
  have hsprite := spriteBit_congr hx hy hi (hframe .memory (by decide)) n
  obtain ⟨u, hu, htoggle', hkeep', hcollide, -⟩ := (drawXorsTheWrappedSprite x y n t).2 (hi ▸ hspan)
  refine ⟨u, hu, fun col row => ?_, ?_⟩
  · by_cases hbit : SpriteBit s x y n col row
    · rw [htoggle' col row ((hsprite col row).mpr hbit), htoggle col row hbit, Bool.not_not]
    · rw [hkeep' col row (mt (hsprite col row).mp hbit), hkeep col row hbit]
  · rintro ⟨col, row, hoff, hon⟩
    have hbit : SpriteBit s x y n col row := by
      by_contra hno
      rw [hkeep col row hno, hoff] at hon
      cases hon
    exact hcollide ⟨col, row, (hsprite col row).mpr hbit, hon⟩

/-- Refutes O36: drawn on a lit display, the font's first byte turns its pixels off, and the second draw turns them on
again without a collision. -/
theorem not_secondIdenticalDrawCollidesForEverySprite :
    ¬ Obligations.SecondIdenticalDrawCollidesForEverySprite := by
  unfold Obligations.SecondIdenticalDrawCollidesForEverySprite
  intro h
  have hbit : SpriteBit State.resetLit 0 0 1 0 0 :=
    ⟨0, 0, by decide, by decide, by decide, by decide, by decide⟩
  obtain ⟨u, hu, hflag⟩ := h 0 0 1 State.resetLit (effect (.drw 0 0 1) State.resetLit) (by decide)
    (exec_of_faultOf_none (by decide)) (by decide) (by decide) ⟨0, 0, hbit⟩
  cases hu.symm.trans (exec_of_faultOf_none (by decide))
  rw [resetLit_second_draw_flag] at hflag
  exact absurd hflag (by decide)

/-- Settles O33: no fault, and the display of all pixels off. -/
theorem clearTurnsEveryPixelOff : Obligations.ClearTurnsEveryPixelOff := by
  unfold Obligations.ClearTurnsEveryPixelOff
  exact fun s => ⟨_, exec_of_faultOf_none (i := .cls) rfl, effect_cls_pixel s, rfl,
    effect_keepsAllBut_writtenParts .cls s⟩

end Sys2Proof.Machine
end

section
/-!
SUPPORT. The timers and the key wait (45_timer_key): one tick as a number less one, with its frame, and the frame of a
completed wait.
-/
namespace Sys2Proof.Machine

/-! ### The tick (R211) -/

/-- Natural subtraction has the floor that a timer has. -/
theorem countedDown_toNat (b : Byte) : (if b = 0 then 0 else b - 1).toNat = b.toNat - 1 := by
  split
  · next hzero => rw [hzero]; rfl
  · bv_omega

section
variable (s : State)

theorem State.keepsAllBut_delay_sound (dt st : Byte) : s.KeepsAllBut { s with dt, st } [.delay, .sound] := by
  apply State.keeps_of_fields <;> simp

theorem State.keepsAllBut_gpr_pc_status (v : Vector Byte 16) (pc : Word) (status : Status) :
    s.KeepsAllBut { s with v, pc, status } [.gpr, .pc, .status] := by
  apply State.keeps_of_fields <;> simp

end

section
variable {s : State} (h : s.status ≠ .halted)
include h

theorem State.tick_of_not_halted :
    s.tick = { s with dt := if s.dt = 0 then 0 else s.dt - 1, st := if s.st = 0 then 0 else s.st - 1 } := if_neg h

theorem State.tick_dt_toNat : s.tick.dt.toNat = s.dt.toNat - 1 := by
  rw [State.tick_of_not_halted h]
  exact countedDown_toNat s.dt

theorem State.tick_st_toNat : s.tick.st.toNat = s.st.toNat - 1 := by
  rw [State.tick_st_of_not_halted h]
  exact countedDown_toNat s.st

theorem State.tick_keepsAllBut : s.KeepsAllBut s.tick [.delay, .sound] := by
  rw [State.tick_of_not_halted h]
  exact s.keepsAllBut_delay_sound _ _

end

/-! ### The key wait (R174) -/

theorem nibbleByte_toNat (k : Nibble) : (nibbleByte k).toNat = k.toNat :=
  BitVec.toNat_setWidth_of_le (by decide)

end Sys2Proof.Machine
end

section
/-! The statements about the timers and the key wait (45_timer_key), each from the effect of its instruction or event. -/
namespace Sys2Proof.Machine

/-- Settles O41: induction on the ticks; the first takes one off both timers, and the core it leaves is not halted. -/
theorem timersReachZeroAfterAsManyTicks : Obligations.TimersReachZeroAfterAsManyTicks := by
  unfold Obligations.TimersReachZeroAfterAsManyTicks
  intro s n hs
  induction n generalizing s with
  | zero => exact ⟨rfl, rfl, s.keepsAllBut_delay_sound s.dt s.st⟩
  | succ n ih =>
    obtain ⟨hdt, hst, hframe⟩ := ih s.tick (s.tick_status ▸ hs)
    rw [State.tick_dt_toNat hs] at hdt
    rw [State.tick_st_toNat hs] at hst
    rw [Function.iterate_succ_apply]
    exact ⟨by omega, by omega, (State.tick_keepsAllBut hs).trans hframe⟩

/-- Settles O37: the read of `DT` is a register write; each load of a timer writes that timer alone. -/
theorem timerAccessMovesAByte : Obligations.TimerAccessMovesAByte := by
  unfold Obligations.TimerAccessMovesAByte
  exact fun x s => ⟨exec_writes_reg (i := .ldVxDt x) rfl rfl,
    ⟨_, exec_of_faultOf_none (i := .ldDtVx x) rfl, rfl, rfl, effect_keepsAllBut_writtenParts (.ldDtVx x) s⟩,
    ⟨_, exec_of_faultOf_none (i := .ldStVx x) rfl, rfl, rfl, effect_keepsAllBut_writtenParts (.ldStVx x) s⟩⟩

/-- Settles O38: the effect is the start of the wait, and neither `pc` nor a register is among the parts it writes. -/
theorem keyWaitHoldsThePc : Obligations.KeyWaitHoldsThePc := by
  unfold Obligations.KeyWaitHoldsThePc
  exact fun x s => ⟨_, exec_of_faultOf_none (i := .ldVxK x) rfl, s.beginWait_status x, s.beginWait_kx x,
    effect_keepsAllBut_writtenParts (.ldVxK x) s⟩

/-- Settles O39: outside the wait the event is dropped; in it the key goes to the latched register, and the core moves
past the FX0A. -/
theorem keyEventCompletesTheWaitOrIsDropped : Obligations.KeyEventCompletesTheWaitOrIsDropped := by
  unfold Obligations.KeyEventCompletesTheWaitOrIsDropped
  intro s k
  constructor
  · intro hwait
    have hkey : (s.writeReg s.kx (nibbleByte k)).reg s.kx = nibbleByte k := s.reg_writeReg_same s.kx _
    rw [perform_keyEvent, State.keyEvent_of_waiting hwait]
    exact ⟨_, rfl, (congrArg _ hkey).trans (nibbleByte_toNat k), rfl, rfl, s.keepsRegsBut_writeReg s.kx _,
      s.keepsAllBut_gpr_pc_status _ _ _⟩
  · intro hidle
    rw [perform_keyEvent, State.keyEvent_of_not_waiting hidle]

end Sys2Proof.Machine
end

section
/-!
SUPPORT. Address register and memory transfer (46_index_mem): the numbers that the address register gets, the fault of a
span at `I` that leaves Memory, what is read back after a store, and the registers after a load.
-/
namespace Sys2Proof.Machine

/-! ### The address register -/

theorem byteWord_toNat (b : Byte) : (byteWord b).toNat = b.toNat :=
  BitVec.toNat_setWidth_of_le (by decide)

/-- R180: the sum of a word and a byte, modulo 65536. -/
theorem add_byteWord_toNat (w : Word) (b : Byte) : (w + byteWord b).toNat = (w.toNat + b.toNat) % 65536 := by
  rw [BitVec.toNat_add, byteWord_toNat]

/-- R181: the last glyph of the highest `FONT_BASE` is far below 65536. -/
theorem glyphAddress_toNat (p : Config.Params) (b : Byte) :
    (glyphAddress p b).toNat = p.fontBase.val + 5 * (b.toNat % 16) :=
  (BitVec.toNat_ofNat ..).trans (Nat.mod_eq_of_lt (by omega))

/-! ### The span fault -/

/-- R198: a memory transfer whose span leaves Memory enters AddressRangeError, with its word of family F. -/
theorem exec_enters_addressRangeError {i : Instr} {x : Nibble} {selector : Byte} {s : State}
    (hword : encode i = formatXI 0xF x selector) (hf : faultOf i s = some .addressRangeError) :
    ∃ t, exec i s = .next t ∧ FaultEntered s t 5 (BitVec.ofNat 16 (0xF000 + selector.toNat + 256 * x.toNat)) :=
  hword.trans (formatXI_eq_ofNat 0xF x selector) ▸ exec_enters_fault hf

/-! ### Memory -/

/-- R64: within the span of a store, the byte stored is read back. -/
theorem State.readByte_storeBytes (s : State) {a k : Nat} {bytes : List Byte} (hwf : Memory.wf s.params s.mem = true)
    (hfits : a + bytes.length ≤ 4096) (hk : k < bytes.length) : (s.storeBytes a bytes).readByte (a + k) = bytes[k] := by
  unfold State.readByte
  rw [storeBytes_params, storeBytes_mem, Memory.read_writeBytes _ _ _ _ hwf hfits, dif_pos (by omega)]
  simp only [Nat.add_sub_cancel_left]

/-- R182: digit `k` of the three stands at `I + k`. -/
theorem effect_ldBVx_readByte {x : Nibble} {s : State} (hspan : s.i.toNat + 2 ≤ 4095)
    (hwf : Memory.wf s.params s.mem = true) (k : Fin 3) :
    (effect (.ldBVx x) s).readByte (s.i.toNat + k.val) = (decimalDigits (s.reg x))[k] :=
  s.readByte_storeBytes hwf (Nat.succ_le_succ hspan) k.isLt

/-- R182: what is read back are hundreds, tens and units, each of which fits a byte. -/
theorem effect_ldBVx_digits {x : Nibble} {s : State} (hspan : s.i.toNat + 2 ≤ 4095)
    (hwf : Memory.wf s.params s.mem = true) :
    ((effect (.ldBVx x) s).readByte s.i.toNat).toNat = (s.reg x).toNat / 100 ∧
    ((effect (.ldBVx x) s).readByte (s.i.toNat + 1)).toNat = (s.reg x).toNat / 10 % 10 ∧
    ((effect (.ldBVx x) s).readByte (s.i.toNat + 2)).toNat = (s.reg x).toNat % 10 := by
  have hread := effect_ldBVx_readByte (x := x) hspan hwf
  refine ⟨(congrArg _ (hread 0)).trans ?_, (congrArg _ (hread 1)).trans ?_, (congrArg _ (hread 2)).trans ?_⟩ <;>
    exact (BitVec.toNat_ofNat ..).trans (Nat.mod_eq_of_lt (by omega))

/-- R183: `V[r]` stands at `I + r`. -/
theorem effect_ldMemVx_readByte {x r : Nibble} {s : State} (hspan : s.i.toNat + x.toNat ≤ 4095)
    (hwf : Memory.wf s.params s.mem = true) (hr : r.toNat ≤ x.toNat) :
    (effect (.ldMemVx x) s).readByte (s.i.toNat + r.toNat) = s.reg r := by
  have hlength := s.regsTo_length x
  exact (s.readByte_storeBytes hwf (by omega) (by omega)).trans (s.regsTo_getElem x r hr)

/-! ### Registers -/

/-- R184: `V[r]` is the byte at `I + r` up to `V[X]`; "registers above `X` keep their values". -/
theorem effect_ldVxMem_reg (x r : Nibble) (s : State) :
    (effect (.ldVxMem x) s).reg r = if r.toNat ≤ x.toNat then s.readByte (s.i.toNat + r.toNat) else s.reg r :=
  s.reg_writeRegsTo x r fun k => s.readByte (s.i.toNat + k)

end Sys2Proof.Machine
end

section
/-! The statements about the address register and memory transfer (46_index_mem), each from the fault or the effect of
its instruction. -/
namespace Sys2Proof.Machine

/-- Settles O43: the sum of two words is their sum modulo 65536. -/
theorem addToAddressRegisterWraps : Obligations.AddToAddressRegisterWraps := by
  unfold Obligations.AddToAddressRegisterWraps
  exact fun x s => ⟨_, exec_of_faultOf_none (i := .addIVx x) rfl, add_byteWord_toNat s.i (s.reg x), rfl,
    effect_keepsAllBut_writtenParts (.addIVx x) s⟩

/-- Settles O44: the glyph's address fits 16 bits. -/
theorem fontAddressPointsAtTheGlyph : Obligations.FontAddressPointsAtTheGlyph := by
  unfold Obligations.FontAddressPointsAtTheGlyph
  exact fun x s => ⟨_, exec_of_faultOf_none (i := .ldFVx x) rfl, glyphAddress_toNat s.params (s.reg x), rfl,
    effect_keepsAllBut_writtenParts (.ldFVx x) s⟩

/-- Settles O45: the span fault of the table (R198), or the three digits of `V[X]`. -/
theorem decimalDigitsAreStoredAtI : Obligations.DecimalDigitsAreStoredAtI := by
  unfold Obligations.DecimalDigitsAreStoredAtI
  intro x s
  constructor
  · exact fun hspan => exec_enters_addressRangeError (i := .ldBVx x) rfl (if_pos hspan)
  · intro hspan
    have hf : faultOf (.ldBVx x) s = none := if_neg (Nat.not_lt.mpr hspan)
    exact ⟨_, exec_of_faultOf_none hf, rfl, effect_keepsAllBut_writtenParts (.ldBVx x) s,
      fun _ => effect_ldBVx_readByte_outside x s, effect_ldBVx_digits hspan⟩

/-- Settles O46: the span fault of the table (R198), or the registers up to `V[X]`. -/
theorem registerDumpStoresUpToX : Obligations.RegisterDumpStoresUpToX := by
  unfold Obligations.RegisterDumpStoresUpToX
  intro x s
  constructor
  · exact fun hspan => exec_enters_addressRangeError (i := .ldMemVx x) rfl (if_pos hspan)
  · intro hspan
    have hf : faultOf (.ldMemVx x) s = none := if_neg (Nat.not_lt.mpr hspan)
    exact ⟨_, exec_of_faultOf_none hf, rfl, effect_keepsAllBut_writtenParts (.ldMemVx x) s,
      fun _ => effect_ldMemVx_readByte_outside x s, fun hwf _ => effect_ldMemVx_readByte hspan hwf⟩

/-- Settles O47: the span fault of the table (R198), or the registers up to `V[X]` from the bytes at `I`. -/
theorem registerLoadReadsUpToX : Obligations.RegisterLoadReadsUpToX := by
  unfold Obligations.RegisterLoadReadsUpToX
  intro x s
  constructor
  · exact fun hspan => exec_enters_addressRangeError (i := .ldVxMem x) rfl (if_pos hspan)
  · intro hspan
    have hf : faultOf (.ldVxMem x) s = none := if_neg (Nat.not_lt.mpr hspan)
    exact ⟨_, exec_of_faultOf_none hf, fun r hr => (effect_ldVxMem_reg x r s).trans (if_pos hr),
      fun r hr => (effect_ldVxMem_reg x r s).trans (if_neg (Nat.not_le.mpr hr)), rfl,
      effect_keepsAllBut_writtenParts (.ldVxMem x) s⟩

/-- Settles O48: the load reads `V[r]` from `I + r`, where the dump stored it. -/
theorem loadAfterDumpRestoresTheRegisters : Obligations.LoadAfterDumpRestoresTheRegisters := by
  unfold Obligations.LoadAfterDumpRestoresTheRegisters
  intro x s t u hwf hspan hdump hmem hi
  obtain ⟨t', ht', -, -, -, hstored⟩ := (registerDumpStoresUpToX x s).2 hspan
  cases hdump.symm.trans ht'
  obtain ⟨v, hload, hloaded, -⟩ := (registerLoadReadsUpToX x u).2 (hi ▸ hspan)
  refine ⟨v, hload, fun r hr => ?_⟩
  calc v.reg r
    _ = u.readByte (u.i.toNat + r.toNat) := hloaded r hr
    _ = t.readByte (s.i.toNat + r.toNat) := by rw [hi, hmem]
    _ = s.reg r := hstored hwf r hr

end Sys2Proof.Machine
end

section
/-!
SUPPORT. Faults, HALTED and the tick (60_exceptions): each event answers a next state unless it is a Reset whose image
does not fit, an effect never halts the core, and what a tick does to a halted core and to a timer that has run out.
-/
namespace Sys2Proof.Machine

/-! ### What an event answers -/

/-- R200: a fault is a next state as well, so every case of a Step event answers one. -/
theorem cpuStep_answers_next (s : State) : ∃ t, cpuStep s = .next t := by
  obtain ⟨-, hidle⟩ | ⟨-, -, hfetch⟩ | ⟨-, -, -, hdecode⟩ | ⟨-, -, i, -, hexec⟩ := cpuStep_cases s
  · exact ⟨_, hidle⟩
  · exact ⟨_, hfetch⟩
  · exact ⟨_, hdecode⟩
  · exact ⟨_, hexec.trans (exec_eq i s)⟩

/-- R233: a Reset with an image that does not fit is the one event that may have no next state. -/
theorem perform_answers_next_or_overlong (e : Event) (s : State) :
    (∃ t, perform e s = .next t) ∨ ∃ image, e = .reset image ∧ 3584 < image.length := by
  cases e with
  | reset image =>
    by_cases hfits : image.length ≤ 3584
    · exact .inl ⟨_, perform_reset hfits⟩
    · exact .inr ⟨image, rfl, Nat.not_le.mp hfits⟩
  | step keys rnd => exact .inl (cpuStep_answers_next (s.sampleInputs keys rnd))
  | keyEvent k => exact .inl ⟨_, perform_keyEvent s k⟩
  | tick => exact .inl ⟨_, perform_tick s⟩
  | hostRead => exact .inl ⟨_, perform_hostRead s⟩

/-! ### HALTED -/

/-- R202: only a fault entry halts; of the effects, the start of a key wait alone writes `STATUS`. -/
theorem effect_not_failed {s : State} (h : ¬ s.Failed) (i : Instr) : ¬ (effect i s).Failed := by
  by_cases hwait : ∃ x, i = .ldVxK x
  · obtain ⟨x, rfl⟩ := hwait
    exact (by decide : Status.awaitKey ≠ .halted)
  · rwa [State.Failed, effect_status (not_exists.mp hwait) s]

theorem State.tick_of_halted {s : State} (h : s.status = .halted) : s.tick = s := if_pos h

/-! ### The tick (R211) -/

/-- A timer that a tick finds at zero stays there. -/
theorem eq_zero_of_countedDown {before after : Byte} (h : after.toNat = before.toNat - 1) (hzero : before.toNat = 0) :
    after = 0 :=
  BitVec.eq_of_toNat_eq (h.trans (by rw [hzero]; rfl))

end Sys2Proof.Machine
end

section
/-! The statements about faults, HALTED and the tick (60_exceptions), each from what its event or instruction answers. -/
namespace Sys2Proof.Machine

/-- Settles O11: only a Reset with an overlong image has no next state, and no such Reset comes from anywhere but the
scripted list. -/
theorem stepStopsOnlyOnOverlongImage : Obligations.StepStopsOnlyOnOverlongImage := by
  unfold Obligations.StepStopsOnlyOnOverlongImage
  intro s
  obtain ⟨t, ht⟩ | ⟨image, he, hlong⟩ := perform_answers_next_or_overlong s.takeEvent.1 s.takeEvent.2
  · exact .inl ⟨t, ht⟩
  · obtain hfits | ⟨rest, hp⟩ := State.takeEvent_image_fits he
    · exact absurd hfits (Nat.not_le.mpr hlong)
    · refine .inr ⟨image, rest, hp, hlong, ?_⟩
      rw [step_eq, he]
      exact perform_reset_overlong (Nat.not_le.mpr hlong)

/-- Settles O12: a halted core is neither running nor waiting, and a tick tests for it; a Reset writes the
status and the latches as the reset state has them. -/
theorem haltedMachineIsFrozenUntilReset : Obligations.HaltedMachineIsFrozenUntilReset := by
  unfold Obligations.HaltedMachineIsFrozenUntilReset
  intro s hs
  refine ⟨fun keys rnd => perform_halted hs (by simp), fun k => ?_, ?_, perform_hostRead s, fun image hfits => ?_⟩
  · rw [perform_keyEvent, State.keyEvent_of_not_waiting (by simp [hs])]
  · rw [perform_tick, State.tick_of_halted hs]
  · exact ⟨_, perform_reset hfits, rfl, rfl, rfl, rfl⟩

/-- Settles O50: an instruction in a row of the table makes that row's entry, any other has its effect, which does not
halt. -/
theorem instructionsFaultExactlyByTheTable : Obligations.InstructionsFaultExactlyByTheTable := by
  unfold Obligations.InstructionsFaultExactlyByTheTable
  exact fun i s hs => ⟨fun _ => exec_enters_fault,
    fun hf => ⟨effect i s, exec_of_faultOf_none hf, effect_not_failed hs i⟩⟩

/-- Settles O40: each timer goes down by one as a natural number, whose floor is zero. -/
theorem tickCountsBothTimersDown : Obligations.TickCountsBothTimersDown := by
  unfold Obligations.TickCountsBothTimersDown
  intro s
  constructor
  · intro hs
    rw [perform_tick, State.tick_of_halted hs]
  · intro hs
    have hdt := State.tick_dt_toNat hs
    have hst := State.tick_st_toNat hs
    exact ⟨s.tick, perform_tick s, fun _ => hdt, eq_zero_of_countedDown hdt, fun _ => hst, eq_zero_of_countedDown hst,
      State.tick_keepsAllBut hs⟩

end Sys2Proof.Machine
end

section
/-!
SUPPORT. Memory after a Reset (70_reset_and_hazards R231): beside the image every byte has its reset content, the font
in its span and zero elsewhere.
-/
namespace Sys2Proof.Machine

theorem Memory.resetByte_font (p : Config.Params) {j : Nat} (hj : j < 80) :
    Memory.resetByte p (p.fontBase.val + j) = fontByte p j := by
  rw [Memory.resetByte, if_pos ⟨Nat.le_add_right .., Nat.add_lt_add_left hj _⟩, Nat.add_sub_cancel_left]

theorem Memory.resetByte_outside_font {p : Config.Params} {a : Nat}
    (h : a < p.fontBase.val ∨ p.fontBase.val + 80 ≤ a) : Memory.resetByte p a = 0 :=
  if_neg (by omega)

theorem State.readByte_resetWith_outside_image (s : State) {image : List Byte} {a : Nat}
    (h : a < 0x200 ∨ 0x200 + image.length ≤ a) : (s.resetWith image).readByte a = Memory.resetByte s.params a :=
  Memory.read_writeBytes_outside s.params 0x200 a image [] h

/-- The font ends below the image (R6: `FONT_BASE + 80 <= 0x200`). -/
theorem State.readByte_resetWith_font (s : State) (image : List Byte) {j : Nat} (hj : j < 80) :
    (s.resetWith image).readByte (s.params.fontBase.val + j) = fontByte s.params j := by
  rw [s.readByte_resetWith_outside_image (by omega), Memory.resetByte_font _ hj]

end Sys2Proof.Machine
end

section
/-! The statements about the Reset event (70_reset_and_hazards), each from the bound on its image. -/
namespace Sys2Proof.Machine

/-- Settles O14: Memory layer by layer; every other field of the core as the reset state has it (R40). -/
theorem resetEventBuildsMemoryInLayers : Obligations.ResetEventBuildsMemoryInLayers := by
  unfold Obligations.ResetEventBuildsMemoryInLayers
  intro s image hfits
  obtain ⟨hreg, -, -, -, hstk, -, -, hpixel, -⟩ := resetStateHasTheStatedValues
  refine ⟨s.resetWith image, perform_reset hfits, fun k hk => s.readByte_resetWith_image hfits hk,
    fun j => s.readByte_resetWith_font image, fun a _ himage hfont => ?_,
    hreg, rfl, rfl, rfl, hstk, rfl, rfl, hpixel, rfl, rfl, rfl, rfl, rfl, rfl, rfl⟩
  rw [s.readByte_resetWith_outside_image himage, Memory.resetByte_outside_font hfont]

/-- Settles O15: the length is the event's only precondition. -/
theorem overlongImageIsRefused : Obligations.OverlongImageIsRefused := by
  unfold Obligations.OverlongImageIsRefused
  exact fun _ _ hlong => perform_reset_overlong (Nat.not_le.mpr hlong)

end Sys2Proof.Machine
end
